-- ==== Sys2Proof/Word.lean ====
section
/-! DEFINITION. Bytes, byte strings and the byte values of the frame formats (00_scope.md R9, R10; 30_encoding.md R83). -/

namespace Sys2Proof

/-- `u8` (R9). -/
abbrev Byte := BitVec 8

/-- `u16` (R9). -/
abbrev Half := BitVec 16

/-- A byte string (R10). -/
abbrev Bytes := List Byte

/-- A quoted byte string `"..."` of the spec: the ASCII codes of its characters (R10, R83). -/
def asc (cs : List Char) : Bytes := cs.map fun c => BitVec.ofNat 8 c.toNat

namespace Ascii

abbrev stx : Byte := 0x02#8
abbrev etx : Byte := 0x03#8
abbrev tab : Byte := 0x09#8
abbrev lf : Byte := 0x0A#8
abbrev cr : Byte := 0x0D#8
abbrev space : Byte := 0x20#8
abbrev comma : Byte := 0x2C#8
abbrev dot : Byte := 0x2E#8
abbrev colon : Byte := 0x3A#8
abbrev equals : Byte := 0x3D#8
abbrev query : Byte := 0x3F#8

end Ascii

end Sys2Proof
end

