-- ==== Sys2Proof/Syntax.lean ====
section
/-! DEFINITION. The block's instructions: one constructor of `Instr` for each row of spec/opcode_table.json. -/

namespace Sys2Proof

/-- The four command families (00_scope.md R3). -/
inductive Family where
  | lineComma | blockColon | blockSpace | lineKeyword
deriving DecidableEq, Repr

/-- The output modes (10_state.md R43). -/
inductive Mode where
  | stopped | continuous | polled
deriving DecidableEq, Repr

/-- The command kinds (42_tokenizer.md R161, 43_dispatch.md R191). `configured n` is the `n`-th extra keyword of a
configuration (44_commands.md R236). -/
inductive Kind where
  | autosend | addrReassign | get | set | setnc | form | fmask | cal
  | start | run | stop | poll | send | r | reset
  | configured (n : Nat)
deriving DecidableEq, Repr

/-- What a command carries besides its kind (10_state.md R26): the frame's bus address, the positional parameter
fields and the untokenised tail. -/
structure Args where
  addr : Option Nat
  fields : List Bytes
  rawtail : Bytes
deriving DecidableEq, Repr

/-- A Command record (10_state.md R26). -/
structure Cmd where
  kind : Kind
  args : Args
deriving DecidableEq, Repr

/-- The eight PORT rows of the opcode table: the block's datapath operations (40_checksum.md, 41_framing.md). -/
inductive Port where
  | crc16Init | crc16Byte | crc16Final | xorInit | xorByte | rxByte | extractBlock | verifyCrc
deriving DecidableEq, Repr

/-- The rows of spec/opcode_table.json, in its order. -/
inductive Instr where
  /-- CRC16_INIT (R110). -/
  | crc16Init
  /-- CRC16_BYTE (R111). -/
  | crc16Byte (b : Byte)
  /-- CRC16_FINAL (R113). -/
  | crc16Final
  /-- XOR_INIT (R118). -/
  | xorInit
  /-- XOR_BYTE (R119). -/
  | xorByte (b : Byte)
  /-- RX_BYTE (R130). -/
  | rxByte (b : Byte)
  /-- EXTRACT_BLOCK (R139) on the byte string `R`. -/
  | extractBlock (r : Bytes)
  /-- VERIFY_CRC (R145) of a CRC field against a span. -/
  | verifyCrc (crcfield span : Bytes)
  /-- A_SET (R220). -/
  | aSet (a : Args)
  /-- A_QUERY (R221). -/
  | aQuery (a : Args)
  /-- N_ADDR (R222). -/
  | nAddr (a : Args)
  /-- GET (R223). -/
  | get (a : Args)
  /-- SET (R224). -/
  | set (a : Args)
  /-- SETNC (R225). -/
  | setnc (a : Args)
  /-- FORM (R226). -/
  | form (a : Args)
  /-- FMASK (R227). -/
  | fmask (a : Args)
  /-- CAL (R228). -/
  | cal (a : Args)
  /-- START (R229). -/
  | start (a : Args)
  /-- RUN (R230). -/
  | run (a : Args)
  /-- STOP (R231). -/
  | stop (a : Args)
  /-- SEND (R232). -/
  | send (a : Args)
  /-- POLL (R235). -/
  | poll (a : Args)
  /-- R (R233). -/
  | r (a : Args)
  /-- RESET (R234). -/
  | reset (a : Args)
deriving DecidableEq, Repr

/-- An encoded instruction: a transaction on one of the block's ports, whose data are the operands of the port's row,
or the bytes of a frame: a line without its terminator (R136), or `RXBUF ++ [ETX]` of a block family (R139). -/
inductive Encoded where
  | port (p : Port) (data : List Bytes)
  | wire (raw : Bytes)
deriving DecidableEq, Repr

/-- Why the decoder gives no instruction. -/
inductive Reject where
  /-- A port transaction whose data are not its row's operands. -/
  | portData
  /-- MalformedFrame (60_exceptions.md R261). -/
  | malformedFrame
  /-- UnknownCommand (60_exceptions.md R263). -/
  | unknownCommand
  /-- A configured keyword (44_commands.md R236): it has no row of the opcode table, and runs inside RX_BYTE. -/
  | configuredCommand (n : Nat)
deriving DecidableEq, Repr

/-- The transient Frame record (10_state.md R25). `span` is the CRC input span (41_framing.md R142). -/
structure Frame where
  family : Family
  addr : Option Nat
  payload : Bytes
  crcfield : Option Bytes
  span : Bytes
  chkvalid : Bool
deriving DecidableEq, Repr

/-- The kind and operands of a command row; `none` for a PORT row. -/
def Instr.toCmd? : Instr → Option Cmd
  | .crc16Init => none
  | .crc16Byte _ => none
  | .crc16Final => none
  | .xorInit => none
  | .xorByte _ => none
  | .rxByte _ => none
  | .extractBlock _ => none
  | .verifyCrc _ _ => none
  | .aSet a => some ⟨.autosend, a⟩
  | .aQuery a => some ⟨.autosend, a⟩
  | .nAddr a => some ⟨.addrReassign, a⟩
  | .get a => some ⟨.get, a⟩
  | .set a => some ⟨.set, a⟩
  | .setnc a => some ⟨.setnc, a⟩
  | .form a => some ⟨.form, a⟩
  | .fmask a => some ⟨.fmask, a⟩
  | .cal a => some ⟨.cal, a⟩
  | .start a => some ⟨.start, a⟩
  | .run a => some ⟨.run, a⟩
  | .stop a => some ⟨.stop, a⟩
  | .send a => some ⟨.send, a⟩
  | .poll a => some ⟨.poll, a⟩
  | .r a => some ⟨.r, a⟩
  | .reset a => some ⟨.reset, a⟩

end Sys2Proof
end

