-- ==== Sys2Proof/Config.lean ====
section
/-! DEFINITION. The configuration parameters of 00_scope.md R7 as plain data, the DeviceState record that `DEVICES`
lists (10_state.md R27 to R46), and the external functions of R8: each a field of the configuration, as plain data. -/

namespace Sys2Proof

/-- An opaque value produced by `compile_format` (00_scope.md R8, 10_state.md R40). The block never looks inside it;
a byte string stands for it. -/
structure CompiledFormat where
  handle : Bytes
deriving DecidableEq, Repr

/-- One DeviceState record (10_state.md R46), one field for each row of its table. -/
structure Dev where
  serial : Bytes
  model : Bytes
  units : Nat
  /-- Hundredths of a second (R31). -/
  interval : Nat
  fmt : Nat
  filter : Nat
  comm : Bytes
  pin : Bytes
  address : Nat
  fieldMask : Nat
  chkEn : Bool
  /-- DESIGN CHOICE, safe (entry 21): every record of every family has it (R46), where R39 gives it to the families whose
  `SET_SCHEMA` has it. -/
  rhThreshold : Nat
  formatProgram : CompiledFormat
  /-- Calibration point to value (R41), points strictly rising. -/
  calibration : List (Nat × Bytes)
  message : Bytes
  mode : Mode
  meas : Bytes
  lastTx : Option Nat
deriving DecidableEq, Repr

/-- `OVERFLOW_RESYNC` (41_framing.md R132). -/
inductive Resync where
  | skipToTerminator | restart
deriving DecidableEq, Repr

/-- `UNADDRESSED_TARGET` (43_dispatch.md R190). -/
inductive Unaddressed where
  | addr0 | broadcast | defaultDev
deriving DecidableEq, Repr

/-- `MISSING_FIELD_POLICY` (42_tokenizer.md R172). -/
inductive MissingPolicy where
  | useDefault | keep
deriving DecidableEq, Repr

/-- `PIN_CHECK` (44_commands.md R228). -/
inductive PinCheck where
  | requireMatch | none
deriving DecidableEq, Repr

/-- The numeric fields a SET schema may name (44_commands.md R224). DESIGN CHOICE, safe (entry 20): `fmt` is among them, as
in R224's legal predicates, where 10_state.md R32 and R46 name `A` alone as its writer. -/
inductive NumField where
  | interval | fmt | filter | rhThreshold | units | chkEn
deriving DecidableEq, Repr

/-- The text fields a SET schema may name (10_state.md R34, R35, R42). -/
inductive TextField where
  | comm | pin | message
deriving DecidableEq, Repr

/-- The numeric forms of a schema entry (30_encoding.md R89). -/
inductive NumForm where
  | uint | fix2
deriving DecidableEq, Repr

/-- One positional entry of `SET_SCHEMA` (00_scope.md R7: field, parser, bound). A numeric entry is held to its
field's legal values (R224) and, where the schema gives one, to a tighter bound. DESIGN CHOICE, safe (entry 22): an entry may
have either form on any numeric field, as R7 and R224 leave its parser open, where 30_encoding.md R88 and R89 read the
interval alone by FIX2. -/
inductive SchemaEntry where
  | num (f : NumField) (form : NumForm) (bound : Option Nat)
  | text (f : TextField)
  | mask
deriving DecidableEq, Repr

/-- The class of a configured command (44_commands.md R236), with its schema or its mode. DESIGN CHOICE, safe (entry 10):
a query names no payload function, since `QUERY_PAYLOAD` sees the command's kind; a bitmask set names no schema, since a
record has one mask field. -/
inductive CmdClass where
  | setClass (schema : List SchemaEntry)
  | maskClass
  | queryClass
  | modeClass (m : Mode)
deriving DecidableEq, Repr

/-- `NUMERIC_DEFAULT`, which may differ for each field (42_tokenizer.md R172). -/
structure NumericDefaults where
  interval : Nat
  fmt : Nat
  filter : Nat
  rhThreshold : Nat
  units : Nat
  chkEn : Nat
  address : Nat
  mask : Nat
  calPoint : Nat
deriving DecidableEq, Repr

/-- What a function parameter is where its graph does not list the argument: one value, or the uninterpreted function of
this number. -/
inductive Elsewhere (β : Type) where
  | const (b : β)
  | free (code : Nat)
deriving DecidableEq, Repr

/-- A parameter whose values are functions (00_scope.md R7, R8), as plain data: its values at the arguments that the
configuration lists, and what it is elsewhere. DESIGN CHOICE, safe (entry 9): the state holds no function, and every
function's values at finitely many arguments can be listed. -/
structure FnParam (α β : Type) where
  graph : List (α × β)
  elsewhere : Elsewhere β
deriving DecidableEq, Repr

/-- `(ok, strip)` of `LINE_CHECK` (41_framing.md R138). -/
structure LineCheck where
  ok : FnParam Bytes Bool
  strip : FnParam Bytes Bytes
deriving DecidableEq, Repr

/-- The parameters of 00_scope.md R7, in its order, less the four that the source fixes; and the external functions of
R8. -/
structure Config where
  family : Family
  crcXorout : Half
  crcSpanStx : Bool
  crcSpanDelim : Bool
  rxbufMax : Nat
  overflowResync : Resync
  addrMax : Nat
  addrPrefixEn : Bool
  unaddressedTarget : Unaddressed
  defaultDev : Nat
  devices : List Dev
  keywords : List (Bytes × Kind)
  /-- `KW_FMASK` and `KW_CAL` (R161): in the table only when configured. -/
  kwFmask : Option Bytes
  kwCal : Option Bytes
  /-- The classes the configuration gives to `R`, `RESET` and its extra keywords (R236). -/
  classes : List (Kind × CmdClass)
  numericDefault : NumericDefaults
  missingFieldPolicy : MissingPolicy
  fieldMaskWidth : Nat
  /-- `VALID`, the mask of the bits in `FIELD_MASK_VALID` (R227). -/
  fieldMaskValid : Nat
  pinCheck : PinCheck
  errReplyChecksum : Option Bytes
  errReplyUnknown : Option Bytes
  /-- `SET_REPLY(family, cmd, dev)` (R8). -/
  setReplyFn : FnParam (Family × Cmd × Dev) (Option Bytes)
  replyTerm : Bytes
  /-- `REPLY_PREFIX(address)`. -/
  replyPrefixFn : FnParam Nat Bytes
  lineCheck : Option LineCheck
  initialMode : Mode
  chkEnReset : Bool
  setSchema : List SchemaEntry
  /-- `QUERY_PAYLOAD(family, cmd, dev)` (R8). -/
  queryPayloadFn : FnParam (Family × Cmd × Dev) Bytes
  /-- `compile_format(text)` (R8). -/
  compileFormatFn : FnParam Bytes (Option CompiledFormat)
  /-- `format_measurement(dev)` (R8). -/
  formatMeasurementFn : FnParam Dev Bytes
  unitCodes : List Nat
  filterMax : Nat
deriving DecidableEq, Repr

/-! ## The uninterpreted functions: total, of their arguments only, and nothing else is assumed of them (R8) -/

/-- `compile_format` number `code`. -/
opaque Config.freeCompileFormat (code : Nat) : Bytes → Option CompiledFormat

/-- `format_measurement` number `code`. -/
opaque Config.freeFormatMeasurement (code : Nat) : Dev → Bytes

/-- `QUERY_PAYLOAD` number `code`. -/
opaque Config.freeQueryPayload (code : Nat) : Family × Cmd × Dev → Bytes

/-- `SET_REPLY` number `code`. -/
opaque Config.freeSetReply (code : Nat) : Family × Cmd × Dev → Option Bytes

/-- `REPLY_PREFIX` number `code`. -/
opaque Config.freeReplyPrefix (code : Nat) : Nat → Bytes

/-- `ok` of `LINE_CHECK` number `code`: a predicate on the whole line. -/
opaque Config.freeLineOk (code : Nat) : Bytes → Bool

/-- `strip` of `LINE_CHECK` number `code`. -/
opaque Config.freeLineStrip (code : Nat) : Bytes → Bytes

end Sys2Proof
end

