-- ==== Sys2Proof/Machine/Operands.lean ====
section
/-! DEFINITION. The operand forms of 30_encoding.md R89, the text renderings of 00_scope.md R12, the splitting of a tail
into fields (42_tokenizer.md R168), `param` (R172) and the legal values of the fields (44_commands.md R224). -/

namespace Sys2Proof

/-- `'0'..'9'`. -/
def isDigit (b : Byte) : Bool := 0x30#8 ≤ b && b ≤ 0x39#8

def digitVal (b : Byte) : Nat := b.toNat - 0x30

/-- The digit byte of a number below ten. -/
def digitByte (n : Nat) : Byte := BitVec.ofNat 8 (0x30 + n)

/-- The value of a string of decimal digits. -/
def decimal (bs : Bytes) : Nat := bs.foldl (fun acc b => acc * 10 + digitVal b) 0

/-- Form UINT, and form ADDR: `D+`, the exact decimal value (R89). -/
def parseUint (bs : Bytes) : Option Nat :=
  if bs ≠ [] ∧ bs.all isDigit then some (decimal bs) else none

/-- The first two fraction digits in hundredths; missing digits count as 0, further digits are dropped (R89). -/
def hundredths : Bytes → Nat
  | [] => 0
  | [a] => digitVal a * 10
  | a :: b :: _ => digitVal a * 10 + digitVal b

/-- Form FIX2: `D+ ( '.' D* )?`, in hundredths (R89). -/
def parseFix2 (bs : Bytes) : Option Nat :=
  let whole := bs.takeWhile isDigit
  match whole, bs.dropWhile isDigit with
  | [], _ => none
  | _ :: _, [] => some (decimal whole * 100)
  | _ :: _, c :: frac =>
    if c = Ascii.dot ∧ frac.all isDigit then some (decimal whole * 100 + hundredths frac) else none

/-- One hexadecimal digit, in either case. -/
def hexDigit (b : Byte) : Option Nat :=
  if isDigit b then some (digitVal b)
  else if 0x41#8 ≤ b && b ≤ 0x46#8 then some (b.toNat - 0x41 + 10)
  else if 0x61#8 ≤ b && b ≤ 0x66#8 then some (b.toNat - 0x61 + 10)
  else none

/-- Form HEX4: exactly four hexadecimal digits, the first most significant (R89). -/
def parseHex4 : Bytes → Option Half
  | [a, b, c, d] =>
    match hexDigit a, hexDigit b, hexDigit c, hexDigit d with
    | some x, some y, some z, some w => some (BitVec.ofNat 16 (((x * 16 + y) * 16 + z) * 16 + w))
    | _, _, _, _ => none
  | _ => none

/-- The uppercase hexadecimal digit of a nibble (92 D6). -/
def hexByte (n : Nat) : Byte := BitVec.ofNat 8 (if n < 10 then 0x30 + n else 0x41 + (n - 10))

/-- `hex4(v)`: four uppercase hexadecimal digits, most significant nibble first (00_scope.md R12). -/
def hex4 (v : Half) : Bytes :=
  [hexByte (v.toNat / 4096), hexByte (v.toNat / 256 % 16), hexByte (v.toNat / 16 % 16), hexByte (v.toNat % 16)]

/-- Decimal digits, most significant first; the first argument bounds their number. -/
def decDigits : Nat → Nat → Bytes
  | 0, _ => []
  | fuel + 1, n => if n < 10 then [digitByte n] else decDigits fuel (n / 10) ++ [digitByte (n % 10)]

/-- `dec(n)`: the shortest decimal rendering, `"0"` for zero (00_scope.md R12). -/
def dec (n : Nat) : Bytes := decDigits (n + 1) n

/-- `render_interval(v)`, `v` in hundredths of a second (44_commands.md R221). -/
def renderInterval (v : Nat) : Bytes :=
  let q := v / 100
  let r := v % 100
  if r = 0 then dec q
  else if r % 10 = 0 then dec q ++ [Ascii.dot] ++ dec (r / 10)
  else dec q ++ [Ascii.dot, digitByte (r / 10), digitByte (r % 10)]

/-- Cut at every occurrence of the delimiter; at least one piece. -/
def pieces (d : Byte) : Bytes → List Bytes
  | [] => [[]]
  | b :: t =>
    if b = d then [] :: pieces d t
    else match pieces d t with
      | [] => [[b]]
      | f :: fs => (b :: f) :: fs

/-- `split(t, d)`: the empty string has no fields (42_tokenizer.md R168). -/
def split (t : Bytes) (d : Byte) : List Bytes := if t = [] then [] else pieces d t

/-- The family delimiter `DELIM` (00_scope.md R3). -/
def Family.delim : Family → Byte
  | .lineComma => Ascii.comma
  | .blockColon => Ascii.colon
  | .blockSpace => Ascii.space
  | .lineKeyword => Ascii.space

/-- The line families (R3). -/
def Family.isLine : Family → Bool
  | .lineComma => true
  | .blockColon => false
  | .blockSpace => false
  | .lineKeyword => true

/-- The terminators of a family: CR and LF, or ETX (30_encoding.md R80). -/
def Family.isTerminator (f : Family) (b : Byte) : Bool :=
  if f.isLine then b == Ascii.cr || b == Ascii.lf else b == Ascii.etx

/-- The result of `param` (42_tokenizer.md R172). -/
inductive Param where
  | value (v : Nat)
  | keep
deriving DecidableEq, Repr

/-- `param(cmd, i, form)`, with the default of the field that reads it (R172). -/
def param (cfg : Config) (dflt : Nat) (fields : List Bytes) (i : Nat) (form : Bytes → Option Nat) : Param :=
  match fields[i]?.bind form with
  | some v => .value v
  | none =>
    match cfg.missingFieldPolicy with
    | .useDefault => .value dflt
    | .keep => .keep

/-- The parser of a numeric form. -/
def NumForm.parse : NumForm → Bytes → Option Nat
  | .uint => parseUint
  | .fix2 => parseFix2

/-- `FMT_MAX`, `INTERVAL_MAX` in hundredths, `NADDR_MAX`, `RH_MAX` (00_scope.md R7: fixed). -/
def fmtMax : Nat := 12
def intervalMax : Nat := 9999 * 100
def naddrMax : Nat := 98
def rhMax : Nat := 100

/-- The legal predicates of the numeric fields (44_commands.md R224, 10_state.md R46). -/
def legalNum (cfg : Config) : NumField → Nat → Bool
  | .interval, v => v ≤ intervalMax
  | .fmt, v => v ≤ fmtMax
  | .filter, v => v ≤ cfg.filterMax
  | .rhThreshold, v => v ≤ rhMax
  | .units, v => cfg.unitCodes.contains v
  | .chkEn, v => v ≤ 1

/-- A schema entry's bound, where it has one. -/
def withinBound (bound : Option Nat) (v : Nat) : Bool :=
  match bound with
  | none => true
  | some m => v ≤ m

/-- The check of `apply_mask`: the value fits the width and has no reserved bit (44_commands.md R227). -/
def legalMask (cfg : Config) (v : Nat) : Bool :=
  v < 2 ^ cfg.fieldMaskWidth && v &&& cfg.fieldMaskValid == v

/-- The default of a schema field. -/
def NumericDefaults.of (n : NumericDefaults) : NumField → Nat
  | .interval => n.interval
  | .fmt => n.fmt
  | .filter => n.filter
  | .rhThreshold => n.rhThreshold
  | .units => n.units
  | .chkEn => n.chkEn

/-- What the receive path may read of a record: everything except `last_tx` (60_exceptions.md R273). -/
def Dev.blockView (d : Dev) : Dev := { d with lastTx := none }

/-- Write a numeric field of a record. -/
def Dev.setNum (d : Dev) : NumField → Nat → Dev
  | .interval, v => { d with interval := v }
  | .fmt, v => { d with fmt := v }
  | .filter, v => { d with filter := v }
  | .rhThreshold, v => { d with rhThreshold := v }
  | .units, v => { d with units := v }
  | .chkEn, v => { d with chkEn := v == 1 }

/-- Write a text field of a record. -/
def Dev.setText (d : Dev) : TextField → Bytes → Dev
  | .comm, t => { d with comm := t }
  | .pin, t => { d with pin := t }
  | .message, t => { d with message := t }

end Sys2Proof
end

