-- ==== Sys2Proof/Machine/Crc.lean ====
section
/-! DEFINITION. The arithmetic of the CRC-16 unit and the XOR unit (40_checksum.md). -/

namespace Sys2Proof

/-- `CRC_INIT` (R110). -/
def crcInit : Half := 0xFFFF#16

/-- One of the eight shifts of R111: shift left; if bit 15 was set, exclusive-or with 0x1021. -/
def crcShift (x : Half) : Half := if x.msb then (x <<< 1) ^^^ 0x1021#16 else x <<< 1

/-- `CRC16_BYTE(b)` on the accumulator (R111). -/
def crcByte (acc : Half) (b : Byte) : Half := crcShift^[8] (acc ^^^ (b.setWidth 16 <<< 8))

/-- The accumulator after a byte string, in index order (R112). -/
def crcFold (acc : Half) (bs : Bytes) : Half := bs.foldl crcByte acc

/-- `crc16_ccitt(s)` under a final XOR (R112, R113). -/
def crc16 (xorout : Half) (bs : Bytes) : Half := crcFold crcInit bs ^^^ xorout

/-- `xor_checksum(s)` (R120). -/
def xorChecksum (bs : Bytes) : Byte := bs.foldl (· ^^^ ·) 0#8

/-- `xor_checksum` of an input that may be absent (R121). -/
def xorChecksumOpt (bs : Option Bytes) : Byte := (bs.map xorChecksum).getD 0#8

end Sys2Proof
end

