-- ==== Sys2Proof/Machine/Table.lean ====
section
/-! DEFINITION. Finite maps with numeric keys as lists in one canonical form, keys strictly rising: the address table
(10_state.md R47) and the calibration map (R41). A key that is not listed has no value. -/

namespace Sys2Proof.Machine

variable {α : Type}

/-- The value at a key. -/
def tabGet : List (Nat × α) → Nat → Option α
  | [], _ => none
  | (k', v) :: t, k => if k = k' then some v else tabGet t k

/-- Write a key, keeping the keys rising. -/
def tabSet : List (Nat × α) → Nat → α → List (Nat × α)
  | [], k, v => [(k, v)]
  | (k', v') :: t, k, v =>
    if k < k' then (k, v) :: (k', v') :: t
    else if k = k' then (k, v) :: t
    else (k', v') :: tabSet t k v

/-- Remove a key. -/
def tabDel : List (Nat × α) → Nat → List (Nat × α)
  | [], _ => []
  | (k', v') :: t, k => if k = k' then tabDel t k else (k', v') :: tabDel t k

/-- The canonical form: keys strictly rising. -/
abbrev tabWf (t : List (Nat × α)) : Prop := (t.map Prod.fst).Pairwise (· < ·)

end Sys2Proof.Machine
end

