-- ==== Sys2Proof/Machine/Defaults.lean ====
section
/-! DEFINITION. The default keyword tables (42_tokenizer.md R161), the default parameter values (00_scope.md R7), and
the vector device record (95_test_vectors.md) that stands for the vendor defaults, and the records and
the address table at reset. -/

namespace Sys2Proof

def kwGet : Bytes × Kind := (asc ['G', 'E', 'T'], .get)
def kwSet : Bytes × Kind := (asc ['S', 'E', 'T'], .set)
def kwSetnc : Bytes × Kind := (asc ['S', 'E', 'T', 'N', 'C'], .setnc)

/-- The mode keywords (R161: the spec's own spellings). -/
def kwModes : List (Bytes × Kind) :=
  [(asc ['S', 'T', 'A', 'R', 'T'], .start), (asc ['R', 'U', 'N'], .run), (asc ['S', 'T', 'O', 'P'], .stop),
   (asc ['P', 'O', 'L', 'L'], .poll), (asc ['S', 'E', 'N', 'D'], .send)]

/-- The default table of each family (R161). -/
def defaultKeywords : Family → List (Bytes × Kind)
  | .lineComma => [(asc ['A'], .autosend), (asc ['N'], .addrReassign)]
  | .blockColon => [kwGet, kwSet, kwSetnc] ++ kwModes
  | .blockSpace => [kwGet, kwSet, kwSetnc] ++ kwModes
  | .lineKeyword =>
    [(asc ['F', 'O', 'R', 'M'], .form), kwSet, kwSetnc] ++ kwModes ++
      [(asc ['R'], .r), (asc ['R', 'E', 'S', 'E', 'T'], .reset)]

/-- The vector device record VD at an address (95_test_vectors.md). The fields VD leaves at any value are empty or 0.
DESIGN CHOICE, unsafe: the spec gives no vendor default (entry 4). -/
def vectorDev (address : Nat) : Dev where
  serial := []
  model := []
  units := 0
  interval := 100
  fmt := 0
  filter := 0
  comm := []
  pin := asc ['1', '2', '3', '4']
  address := address
  fieldMask := 3
  chkEn := true
  rhThreshold := 50
  formatProgram := ⟨[]⟩
  calibration := []
  message := []
  mode := .stopped
  meas := []
  lastTx := none

/-- The vectors' example schema (44_commands.md R224). -/
def vectorSchema : List SchemaEntry := [.num .interval .fix2 none, .num .rhThreshold .uint none]

/-- The defaults of 00_scope.md R7 for a family. `UNIT_CODES` and `FILTER_MAX` have none: DESIGN CHOICE, unsafe
(entry 3). -/
def Config.forFamily (f : Family) : Config where
  family := f
  crcXorout := 0#16
  crcSpanStx := false
  crcSpanDelim := true
  rxbufMax := 64
  overflowResync := .skipToTerminator
  addrMax := 98
  addrPrefixEn := f == .lineComma
  unaddressedTarget := .addr0
  defaultDev := 0
  devices := [vectorDev 0]
  keywords := defaultKeywords f
  kwFmask := none
  kwCal := none
  classes := []
  numericDefault := ⟨0, 0, 0, 0, 0, 0, 0, 0, 0⟩
  missingFieldPolicy := .useDefault
  fieldMaskWidth := 32
  fieldMaskValid := 0xFFFF
  pinCheck := .requireMatch
  errReplyChecksum := none
  errReplyUnknown := none
  setReplyFn := ⟨[], .const none⟩
  replyTerm := [Ascii.cr, Ascii.lf]
  replyPrefixFn := ⟨[], .const []⟩
  lineCheck := none
  initialMode := .stopped
  chkEnReset := true
  setSchema := vectorSchema
  queryPayloadFn := ⟨[], .free 0⟩
  compileFormatFn := ⟨[], .free 0⟩
  formatMeasurementFn := ⟨[], .free 0⟩
  unitCodes := [0]
  filterMax := 0

/-- The configuration of `State.reset`. `FAMILY` is OPEN (R7): the barometric family, DESIGN CHOICE, unsafe (entry 3). -/
def Config.default : Config := Config.forFamily .lineComma

/-- The keywords the vectors give to FMASK and CAL (95_test_vectors.md). -/
def vectorFmask : Bytes := asc ['F', 'M', 'A', 'S', 'K']
def vectorCal : Bytes := asc ['C', 'A', 'L']

/-- A configuration turned to another family, with that family's default table and the vectors' spellings of FMASK and
CAL; every other parameter stays. -/
def Config.toFamily (cfg : Config) (f : Family) : Config :=
  { cfg with
    family := f, keywords := defaultKeywords f, kwFmask := some vectorFmask, kwCal := some vectorCal }

namespace Machine

/-- A record at reset: the given one, with the mode, checksum check and timestamp of R290. `meas` is a draw there; the
model takes the given record's (DESIGN CHOICE, unsafe, entry 5). -/
def Dev.atReset (cfg : Config) (d : Dev) : Dev :=
  { d with mode := cfg.initialMode, chkEn := cfg.chkEnReset, lastTx := none }

/-- `ATAB` of a list of records, the first of them device `n`. -/
def addressTable : Nat → List Dev → List (Nat × Nat)
  | _, [] => []
  | n, d :: t => tabSet (addressTable (n + 1) t) d.address n

end Machine

end Sys2Proof
end

