-- ==== Sys2Proof/Decode.lean ====
section
/-! DEFINITION. The frame extractor (41_framing.md R136 to R144), the tokenizer (42_tokenizer.md), the decoder, total on
any bytes and rejecting by name, and after it the encoder. -/

namespace Sys2Proof

/-! ## Keywords (42_tokenizer.md R160 to R164) -/

/-- `fold(b)`: a lowercase ASCII letter becomes uppercase (R162). -/
def foldByte (b : Byte) : Byte := if 0x61#8 ≤ b && b ≤ 0x7A#8 then b &&& 0xDF#8 else b

/-- `fold` on strings, byte by byte (R162). -/
def foldBytes (bs : Bytes) : Bytes := bs.map foldByte

/-- The bytes that may follow a keyword, besides the end of the payload (30_encoding.md R87). -/
def Family.isBoundary (f : Family) (b : Byte) : Bool :=
  b == Ascii.space || b == Ascii.tab || b == Ascii.query || b == Ascii.equals || b == f.delim

/-- The keyword table in force: the family's table, and FMASK and CAL where configured (R161). -/
def Config.table (cfg : Config) : List (Bytes × Kind) :=
  cfg.keywords ++ (cfg.kwFmask.toList.map fun k => (k, Kind.fmask)) ++ (cfg.kwCal.toList.map fun k => (k, Kind.cal))

/-- Keyword `k` stands at the start of `p`, before a boundary or the end (R160). -/
def keywordAt (f : Family) (p k : Bytes) : Bool :=
  k.length ≤ p.length && foldBytes (p.take k.length) == foldBytes k &&
    (match p[k.length]? with
     | none => true
     | some c => f.isBoundary c)

/-- The longer of two candidates; the earlier on equal lengths. -/
def longer (best : Option (Bytes × Kind)) (e : Bytes × Kind) : Option (Bytes × Kind) :=
  match best with
  | none => some e
  | some b => if b.1.length < e.1.length then some e else some b

/-- `match_keyword(p)`: the longest keyword at the start of `p` (R160). -/
def matchKeyword (cfg : Config) (p : Bytes) : Option (Bytes × Kind) :=
  (cfg.table.filter fun e => keywordAt cfg.family p e.1).foldl longer none

/-- `tail_of(p, k)` for a keyword of `n` bytes: `?` is kept, any other boundary byte is consumed (R163). -/
def tailOf (p : Bytes) (n : Nat) : Bytes :=
  match p.drop n with
  | [] => []
  | c :: t => if c = Ascii.query then c :: t else t

/-! ## Addresses (R165 to R167) -/

/-- `split_prefix(line)` (R165). -/
def splitPrefix (cfg : Config) (line : Bytes) : Option Nat × Bytes :=
  if cfg.addrPrefixEn then
    match line.takeWhile isDigit, line.dropWhile isDigit with
    | d :: ds, c :: rest => if c = Ascii.colon then (some (decimal (d :: ds)), rest) else (none, line)
    | _, _ => (none, line)
  else (none, line)

/-- The `id` field of a `BLOCK_COLON` payload: the second field, form ADDR (R167). -/
def bcAddr (payload : Bytes) : Option Nat :=
  match split payload Ascii.colon with
  | _ :: id :: _ => parseUint id
  | _ => none

/-- The bytes after the second colon; empty if there is none (R167). -/
def afterSecondColon (payload : Bytes) : Bytes :=
  ((((payload.dropWhile (· != Ascii.colon)).drop 1).dropWhile (· != Ascii.colon)).drop 1)

/-! ## Frame extraction (41_framing.md R139 to R144) -/

/-- What follows the first STX; the bytes before it are LEAD (R140). -/
def afterStx : Bytes → Option Bytes
  | [] => none
  | b :: t => if b = Ascii.stx then some t else afterStx t

/-- What stands before the first ETX (R140). -/
def beforeEtx : Bytes → Option Bytes
  | [] => none
  | b :: t => if b = Ascii.etx then some [] else (beforeEtx t).map (b :: ·)

/-- The bytes strictly between the first STX and the first ETX after it (R139). -/
def blockInner (r : Bytes) : Option Bytes := (afterStx r).bind beforeEtx

/-- Cut at the last occurrence of a byte: what stands before it, and after it (R140: the scan goes backward). -/
def cutLast (d : Byte) : Bytes → Option (Bytes × Bytes)
  | [] => none
  | b :: t =>
    match cutLast d t with
    | some (x, y) => some (b :: x, y)
    | none => if b = d then some ([], t) else none

/-- `crc_span`: the payload, with STX and the delimiter where the parameters say so (R142). -/
def crcSpan (cfg : Config) (payload : Bytes) : Bytes :=
  (if cfg.crcSpanStx then [Ascii.stx] else []) ++ payload ++ (if cfg.crcSpanDelim then [cfg.family.delim] else [])

/-- The block Frame of a payload and a CRC field; an empty CRC field is a MalformedFrame (R143). -/
def blockFrame (cfg : Config) (payload crcfield : Bytes) : Option Frame :=
  if crcfield = [] then none
  else some
    { family := cfg.family, addr := none, payload := payload, crcfield := some crcfield,
      span := crcSpan cfg payload, chkvalid := false }

/-- `extract_bc(R)`: `none` is a MalformedFrame (R140). The last colon closes the CRC field, the one before it opens it
(R141). -/
def extractBc (cfg : Config) (r : Bytes) : Option Frame :=
  (blockInner r).bind fun inner =>
    (cutLast Ascii.colon inner).bind fun c1 =>
      (cutLast Ascii.colon c1.1).bind fun c2 => blockFrame cfg c2.1 c2.2

/-- `extract_bs(R)`: `none` is a MalformedFrame (R144). -/
def extractBs (cfg : Config) (r : Bytes) : Option Frame :=
  (blockInner r).bind fun inner =>
    (cutLast Ascii.space inner).bind fun c => blockFrame cfg c.1 c.2

/-- `EXTRACT_BLOCK` (R139). A line family has no block frames. -/
def extractBlock (cfg : Config) (r : Bytes) : Option Frame :=
  match cfg.family with
  | .blockColon => extractBc cfg r
  | .blockSpace => extractBs cfg r
  | .lineComma => none
  | .lineKeyword => none

/-- `extract_line(line)`, with the address the prefix gives (R136, R165). -/
def extractLine (cfg : Config) (line : Bytes) : Frame :=
  { family := cfg.family, addr := (splitPrefix cfg line).1, payload := (splitPrefix cfg line).2, crcfield := none,
    span := [], chkvalid := true }

/-- The frame cut from the raw bytes, with its address: what a frame step knows before it resolves its targets
(43_dispatch.md R199). `none` is a MalformedFrame. -/
def locateFrame (cfg : Config) (raw : Bytes) : Option Frame :=
  match cfg.family with
  | .lineComma => some (extractLine cfg raw)
  | .lineKeyword => some (extractLine cfg raw)
  | .blockSpace => extractBs cfg raw
  | .blockColon =>
    (extractBc cfg raw).bind fun f => (bcAddr f.payload).map fun a => { f with addr := some a }

/-! ## Tokenizers -/

/-- The tokenizer of the line families and of `BLOCK_SPACE` (R160, R163, R168 to R170); `none` is UnknownCommand. -/
def tokenizeTail (cfg : Config) (addr : Option Nat) (p : Bytes) : Option Cmd :=
  (matchKeyword cfg p).map fun e =>
    { kind := e.2,
      args := { addr := addr, fields := split (tailOf p e.1.length) cfg.family.delim, rawtail := tailOf p e.1.length } }

/-- `tokenize_bc`: the keyword must be the whole of the first field (R167); `none` is UnknownCommand. -/
def tokenizeBc (cfg : Config) (addr : Option Nat) (payload : Bytes) : Option Cmd :=
  match split payload Ascii.colon with
  | kw :: _ :: fields =>
    (matchKeyword cfg kw).bind fun e =>
      if e.1.length = kw.length then
        some { kind := e.2, args := { addr := addr, fields := fields, rawtail := afterSecondColon payload } }
      else none
  | _ => none

/-- The Command of a payload (R167, R169, R170); `none` is UnknownCommand (60_exceptions.md R263). -/
def tokenize (cfg : Config) (addr : Option Nat) (p : Bytes) : Option Cmd :=
  match cfg.family with
  | .lineComma => tokenizeTail cfg addr p
  | .lineKeyword => tokenizeTail cfg addr p
  | .blockSpace => tokenizeTail cfg addr p
  | .blockColon => tokenizeBc cfg addr p

/-! ## The decoder -/

/-- The QUERY form (30_encoding.md R89, 42_tokenizer.md R171): the first field is exactly `?`. -/
def Args.query (a : Args) : Bool := a.fields.head? == some [Ascii.query]

/-- The row of the opcode table that a command is. -/
def instrOf (c : Cmd) : Except Reject Instr :=
  match c.kind with
  | .autosend => if c.args.query then .ok (.aQuery c.args) else .ok (.aSet c.args)
  | .addrReassign => .ok (.nAddr c.args)
  | .get => .ok (.get c.args)
  | .set => .ok (.set c.args)
  | .setnc => .ok (.setnc c.args)
  | .form => .ok (.form c.args)
  | .fmask => .ok (.fmask c.args)
  | .cal => .ok (.cal c.args)
  | .start => .ok (.start c.args)
  | .run => .ok (.run c.args)
  | .stop => .ok (.stop c.args)
  | .poll => .ok (.poll c.args)
  | .send => .ok (.send c.args)
  | .r => .ok (.r c.args)
  | .reset => .ok (.reset c.args)
  | .configured n => .error (.configuredCommand n)

/-- The command a frame's raw bytes carry. -/
def decodeFrame (cfg : Config) (raw : Bytes) : Except Reject Cmd :=
  match locateFrame cfg raw with
  | none => .error .malformedFrame
  | some f =>
    match tokenize cfg f.addr f.payload with
    | none => .error .unknownCommand
    | some c => .ok c

/-- The operation a port transaction asks for: the data are the operands of the port's row (opcode_table.json). -/
def decodePort (p : Port) (data : List Bytes) : Except Reject Instr :=
  match p, data with
  | .crc16Init, [] => .ok .crc16Init
  | .crc16Byte, [[b]] => .ok (.crc16Byte b)
  | .crc16Final, [] => .ok .crc16Final
  | .xorInit, [] => .ok .xorInit
  | .xorByte, [[b]] => .ok (.xorByte b)
  | .rxByte, [[b]] => .ok (.rxByte b)
  | .extractBlock, [r] => .ok (.extractBlock r)
  | .verifyCrc, [crcfield, span] => .ok (.verifyCrc crcfield span)
  | _, _ => .error .portData

/-- The decoder. -/
def decode (cfg : Config) : Encoded → Except Reject Instr
  | .port p data => decodePort p data
  | .wire raw => (decodeFrame cfg raw).bind instrOf

/-! ## The encoder -/

/-- The spelling of a kind: its first keyword in the table. -/
def keywordOf (cfg : Config) (k : Kind) : Bytes :=
  match cfg.table.find? fun e => e.2 == k with
  | some e => e.1
  | none => []

/-- A block frame around a payload, with its CRC (43_dispatch.md R197, 30_encoding.md R84, R85). -/
def frameBlock (cfg : Config) (payload : Bytes) : Bytes :=
  match cfg.family with
  | .blockColon =>
    [Ascii.stx] ++ payload ++ [Ascii.colon] ++ hex4 (crc16 cfg.crcXorout (crcSpan cfg payload)) ++
      [Ascii.colon, Ascii.etx]
  | _ =>
    [Ascii.stx] ++ payload ++ [Ascii.space] ++ hex4 (crc16 cfg.crcXorout (crcSpan cfg payload)) ++ [Ascii.etx]

/-- KEYWORD, BOUNDARY and TAIL of formats L, K and BS (30_encoding.md R81, R82, R85). -/
def encodeTail (cfg : Config) (c : Cmd) : Bytes :=
  keywordOf cfg c.kind ++ (if c.args.rawtail = [] then [] else cfg.family.delim :: c.args.rawtail)

/-- The payload of format BC: `CMD ':' id [':' params ...]` (R84). -/
def encodeBc (cfg : Config) (c : Cmd) : Bytes :=
  keywordOf cfg c.kind ++ [Ascii.colon] ++ dec (c.args.addr.getD 0) ++ c.args.fields.flatMap (Ascii.colon :: ·)

/-- The address prefix of a line (R81). -/
def encodePrefix (addr : Option Nat) : Bytes :=
  match addr with
  | none => []
  | some a => dec a ++ [Ascii.colon]

/-- The raw bytes of a command's frame. -/
def encodeCmd (cfg : Config) (c : Cmd) : Bytes :=
  match cfg.family with
  | .lineComma => encodePrefix c.args.addr ++ encodeTail cfg c
  | .lineKeyword => encodePrefix c.args.addr ++ encodeTail cfg c
  | .blockSpace => frameBlock cfg (encodeTail cfg c)
  | .blockColon => frameBlock cfg (encodeBc cfg c)

/-- The encoder. -/
def encode (cfg : Config) : Instr → Encoded
  | .crc16Init => .port .crc16Init []
  | .crc16Byte b => .port .crc16Byte [[b]]
  | .crc16Final => .port .crc16Final []
  | .xorInit => .port .xorInit []
  | .xorByte b => .port .xorByte [[b]]
  | .rxByte b => .port .rxByte [[b]]
  | .extractBlock r => .port .extractBlock [r]
  | .verifyCrc crcfield span => .port .verifyCrc [crcfield, span]
  | .aSet a => .wire (encodeCmd cfg ⟨.autosend, a⟩)
  | .aQuery a => .wire (encodeCmd cfg ⟨.autosend, a⟩)
  | .nAddr a => .wire (encodeCmd cfg ⟨.addrReassign, a⟩)
  | .get a => .wire (encodeCmd cfg ⟨.get, a⟩)
  | .set a => .wire (encodeCmd cfg ⟨.set, a⟩)
  | .setnc a => .wire (encodeCmd cfg ⟨.setnc, a⟩)
  | .form a => .wire (encodeCmd cfg ⟨.form, a⟩)
  | .fmask a => .wire (encodeCmd cfg ⟨.fmask, a⟩)
  | .cal a => .wire (encodeCmd cfg ⟨.cal, a⟩)
  | .start a => .wire (encodeCmd cfg ⟨.start, a⟩)
  | .run a => .wire (encodeCmd cfg ⟨.run, a⟩)
  | .stop a => .wire (encodeCmd cfg ⟨.stop, a⟩)
  | .send a => .wire (encodeCmd cfg ⟨.send, a⟩)
  | .poll a => .wire (encodeCmd cfg ⟨.poll, a⟩)
  | .r a => .wire (encodeCmd cfg ⟨.r, a⟩)
  | .reset a => .wire (encodeCmd cfg ⟨.reset, a⟩)

/-! ## The host's words -/

/-- The bytes of a table word: the opcode table reads a keyword as one number whose last byte is bits 7..0
(spec/98_reader.md), so the first byte is the most significant (entry 11). -/
def tableBytes (nbits w : Nat) : Bytes :=
  (List.range (nbits / 8)).map fun i => BitVec.ofNat 8 (w / 256 ^ (nbits / 8 - 1 - i))

/-- The first family, of those whose frames need no address, whose table holds the keyword (entry 11). -/
def tableFamily (bs : Bytes) : Option Family :=
  [Family.lineComma, .blockSpace, .lineKeyword].find? fun f =>
    (matchKeyword (Config.default.toFamily f) bs).isSome

/-- The raw frame whose payload is the word's bytes. -/
def tableFrame (cfg : Config) (bs : Bytes) : Bytes := if cfg.family.isLine then bs else frameBlock cfg bs

/-- The instruction the decoder reads from a table word, in the family of `tableFamily`. -/
def decodeTableWord (nbits w : Nat) : Option Instr :=
  (tableFamily (tableBytes nbits w)).bind fun f =>
    match decode (Config.default.toFamily f) (.wire (tableFrame (Config.default.toFamily f) (tableBytes nbits w))) with
    | .ok i => some i
    | .error _ => none

end Sys2Proof
end

