-- ==== Sys2Proof/Machine/External.lean ====
section
/-! DEFINITION. The function parameters of the configuration, applied: the external functions of 00_scope.md R8, and
`REPLY_PREFIX` and `LINE_CHECK` of R7. -/

namespace Sys2Proof

/-- The value of a function parameter: the first that its graph lists for the argument, and else what it is elsewhere. -/
def FnParam.apply {α β : Type} [DecidableEq α] (p : FnParam α β) (free : Nat → α → β) (a : α) : β :=
  match p.graph.find? fun e => e.1 = a with
  | some e => e.2
  | none =>
    match p.elsewhere with
    | .const b => b
    | .free code => free code a

/-- `compile_format(text)` (R8). -/
def Config.compileFormat (cfg : Config) (text : Bytes) : Option CompiledFormat :=
  cfg.compileFormatFn.apply Config.freeCompileFormat text

/-- `format_measurement(dev)` (R8). -/
def Config.formatMeasurement (cfg : Config) (dev : Dev) : Bytes :=
  cfg.formatMeasurementFn.apply Config.freeFormatMeasurement dev

/-- `QUERY_PAYLOAD(FAMILY, cmd, dev)` (R8). -/
def Config.queryPayload (cfg : Config) (cmd : Cmd) (dev : Dev) : Bytes :=
  cfg.queryPayloadFn.apply Config.freeQueryPayload (cfg.family, cmd, dev)

/-- `SET_REPLY(FAMILY, cmd, dev)` (R8). -/
def Config.setReply (cfg : Config) (cmd : Cmd) (dev : Dev) : Option Bytes :=
  cfg.setReplyFn.apply Config.freeSetReply (cfg.family, cmd, dev)

/-- `REPLY_PREFIX(address)` (R7). -/
def Config.replyPrefix (cfg : Config) (address : Nat) : Bytes := cfg.replyPrefixFn.apply Config.freeReplyPrefix address

/-- `ok(line)` (41_framing.md R138). -/
def LineCheck.passes (chk : LineCheck) (line : Bytes) : Bool := chk.ok.apply Config.freeLineOk line

/-- `strip(payload)` (41_framing.md R138). -/
def LineCheck.stripped (chk : LineCheck) (payload : Bytes) : Bytes := chk.strip.apply Config.freeLineStrip payload

end Sys2Proof
end

