-- ==== Sys2Proof/Machine/State.lean ====
section
/-! DEFINITION. The machine's state as plain data (10_state.md R20 to R53, 60_exceptions.md R274), its faults and
refusals, and the state after reset (70_reset_and_hazards.md R290). -/

namespace Sys2Proof.Machine

/-- The outcome codes (60_exceptions.md R260). -/
inductive OutcomeCode where
  | ok | malformedFrame | checksumMismatch | unknownCommand | outOfRange | addressOutOfRange | overflow | refused
deriving DecidableEq, Repr

/-- One entry of `OUTLOG` (10_state.md R52). -/
structure LogEntry where
  outcome : OutcomeCode
  addr : Option Nat
  kind : Option Kind
deriving DecidableEq, Repr

/-- Which of its steps the sender path takes next (60_exceptions.md R274): SENDER_STEP, SENDER_WRITE, SENDER_STAMP, or
none, once it has seen SHUTDOWN. -/
inductive SenderPhase where
  | waiting | collected | written | exited
deriving DecidableEq, Repr

/-- One move of an agent (60_exceptions.md R273). -/
inductive Move where
  /-- A transaction on a port of the block. The transport delivers a byte `b` as `.port .rxByte [[b]]` (R130). -/
  | port (p : Port) (data : List Bytes)
  /-- `read_byte()` returned `none` (41_framing.md R135). -/
  | noByte
  /-- The sender path takes its next step: its clock has advanced by `dt` since its last one, and `feed` are the results
  of the step's `next_line()` calls in order; calls beyond the list return `none` (R274). -/
  | sender (dt : Nat) (feed : List (Option Bytes))
  /-- The transport takes the head message of `TXQ` (R273). -/
  | transmit
  /-- `SHUTDOWN_STEP` of the host (R275). -/
  | shutdown
deriving DecidableEq, Repr

/-- The machine. -/
structure State where
  /-- The configuration: a parameter of the step relation (R20), which no step writes (entry 1). -/
  cfg : Config
  /-- `RXBUF` (R23). -/
  rxbuf : Bytes
  /-- `RXDISC` (R24). -/
  rxdisc : Bool
  /-- `CRCR` (R21). -/
  crcr : BitVec 16
  /-- The value `CRC16_FINAL` last returned (R113; the model's own field, entry 6). -/
  crcOut : BitVec 16
  /-- `XACC` (R21). -/
  xacc : BitVec 8
  /-- The transient Frame between direct port operations (R25, entry 6). -/
  frame : Option Frame
  /-- `DEV`, indexed by device id (R27). -/
  devs : List Dev
  /-- `ATAB`: bus address to device id (R47), in the canonical form of `tabWf`. -/
  atab : List (Nat × Nat)
  /-- `WAKE` (R49). -/
  wake : Bool
  /-- `SHUTDOWN` (R50). -/
  shutdown : Bool
  /-- `TXQ`, the head first (R51). -/
  txq : List Bytes
  /-- `OUTLOG`, the oldest entry first (R52). -/
  outlog : List LogEntry
  /-- `REFUSED` (R53). -/
  refused : Bool
  /-- The sender path's `pending` (R274). -/
  pending : List (Nat × Bytes)
  /-- The sender path's next step (R274). -/
  senderPhase : SenderPhase
  /-- The host's monotone clock, in hundredths of a second, as the sender last saw it (R274). -/
  now : Nat
  /-- The agents' coming moves, in the order they are taken: the interleaving (R66, entry 2). -/
  inbox : List Move
deriving DecidableEq, Repr

/-- The faults of a step. The block has none of its own (93_implementation_defined.md). -/
inductive Fault where
  /-- Raised by `step` where a port transaction carries data that are not the operands of its port's row. The table has
  no such instruction. Safe. -/
  | portData
  /-- Raised by EXTRACT_BLOCK in a line family: R139 gives the operation for the two block families only. Safe. -/
  | noBlockFraming
deriving DecidableEq, Repr

/-- The refusals of a step. -/
inductive Refusal where
  /-- Raised by an arm of `exec` whose instruction has no meaning yet. No arm is so. Safe. -/
  | notModelled (mnemonic : String)
deriving DecidableEq, Repr

/-- The result of a meaning. -/
abbrev Result := Host.Outcome State Fault Refusal

/-- The state after reset under a configuration (R290). `crcr` and `xacc` are unspecified there: 0, DESIGN CHOICE,
unsafe (entry 5). -/
def State.resetWith (cfg : Config) : State where
  cfg := cfg
  rxbuf := []
  rxdisc := false
  crcr := 0#16
  crcOut := 0#16
  xacc := 0#8
  frame := none
  devs := cfg.devices.map (Dev.atReset cfg)
  atab := addressTable 0 cfg.devices
  wake := false
  shutdown := false
  txq := []
  outlog := []
  refused := false
  pending := []
  senderPhase := .waiting
  now := 0
  inbox := []

/-- The state after reset under the default configuration. -/
def State.reset : State := State.resetWith Config.default

end Sys2Proof.Machine
end

