-- ==== Sys2Proof/Machine/Ops.lean ====
section
/-! DEFINITION. The named operations over the state: signals, the transmit queue, device fields, the address table, the
accumulators, target resolution (43_dispatch.md R190), reply framing (R197), and ending a frame with an outcome
(00_scope.md R11, 60_exceptions.md R260), which is this block's form of taking an exception; there is no return from one
(R270). -/

namespace Sys2Proof.Machine

/-! ## One element at a time -/

/-- `wake()` (00_scope.md R11). -/
def State.wakeUp (s : State) : State := { s with wake := true }

/-- `emit` of each message, in order (00_scope.md R11, 10_state.md R51). -/
def State.emitAll (s : State) (ms : List Bytes) : State := { s with txq := s.txq ++ ms }

/-- Append one entry to `OUTLOG` (10_state.md R52). -/
def State.log (s : State) (o : OutcomeCode) (addr : Option Nat) (kind : Option Kind) : State :=
  { s with outlog := s.outlog ++ [⟨o, addr, kind⟩] }

/-- The frame is discarded (10_state.md R25). -/
def State.dropFrame (s : State) : State := { s with frame := none }

/-- Change the record of one device (43_dispatch.md R204). -/
def State.modifyDev (s : State) (d : Nat) (f : Dev → Dev) : State := { s with devs := s.devs.modify d f }

/-- The move of `N`: the old entry out, the new one in, and the record's address, in one step (44_commands.md R222). -/
def State.moveDev (s : State) (d old new : Nat) : State :=
  { s with
    atab := tabSet (tabDel s.atab old) new d
    devs := s.devs.modify d fun v => { v with address := new } }

/-- CRC16_INIT, CRC16_BYTE over a span, CRC16_FINAL (40_checksum.md R112). -/
def State.runCrc (s : State) (span : Bytes) : State :=
  { s with crcr := crcFold crcInit span, crcOut := crc16 s.cfg.crcXorout span }

/-- Set the receive buffer and `RXDISC`. -/
def State.setRx (s : State) (buf : Bytes) (disc : Bool) : State := { s with rxbuf := buf, rxdisc := disc }

/-! ## Ending a frame -/

/-- The numeric outcome codes (60_exceptions.md R260). -/
def OutcomeCode.number : OutcomeCode → Nat
  | .ok => 0
  | .malformedFrame => 1
  | .checksumMismatch => 2
  | .unknownCommand => 3
  | .outOfRange => 4
  | .addressOutOfRange => 5
  | .overflow => 6
  | .refused => 7

/-- The error reply of an outcome: raw bytes, where configured (60_exceptions.md R262, R263). -/
def errReply (cfg : Config) : OutcomeCode → List Bytes
  | .checksumMismatch => cfg.errReplyChecksum.toList
  | .unknownCommand => cfg.errReplyUnknown.toList
  | .ok => []
  | .malformedFrame => []
  | .outOfRange => []
  | .addressOutOfRange => []
  | .overflow => []
  | .refused => []

/-- `raise <Outcome>`: the outcome is logged, its error reply queued, the frame discarded (00_scope.md R11). -/
def State.raise (s : State) (o : OutcomeCode) (addr : Option Nat) : State :=
  ((s.emitAll (errReply s.cfg o)).log o addr none).dropFrame

/-! ## Target resolution -/

/-- `targets(a)`; the empty list is AddressOutOfRange (43_dispatch.md R190). -/
def targets (s : State) (a : Option Nat) : List Nat :=
  let a0 := a.getD 0
  if a0 = 0 then
    match s.cfg.unaddressedTarget with
    | .addr0 => (tabGet s.atab 0).toList
    | .broadcast => (List.range (s.cfg.addrMax + 1)).filterMap (tabGet s.atab)
    | .defaultDev => [s.cfg.defaultDev]
  else if a0 > s.cfg.addrMax then []
  else (tabGet s.atab a0).toList

/-! ## Dispatch -/

/-- What a dispatch carries from one target to the next: the state, the OutOfRange accumulator, the replies
(43_dispatch.md R192). -/
structure Ctx where
  st : State
  oor : Bool
  replies : List Bytes

/-- `oor <- true`. -/
def Ctx.reject (x : Ctx) : Ctx := { x with oor := true }

/-- Change the state of a dispatch. -/
def Ctx.onState (x : Ctx) (f : State → State) : Ctx := { x with st := f x.st }

/-- `frame_reply(payload, d)` for the address of `d` (43_dispatch.md R197). -/
def frameReply (cfg : Config) (addr : Nat) (payload : Bytes) : Bytes :=
  if cfg.family.isLine then
    cfg.replyPrefix addr ++ payload ++ cfg.replyTerm
  else frameBlock cfg payload

/-- Framing a reply runs the CRC unit in the block families (R197), and not in the line families (41_framing.md R137). -/
def State.runReplyCrc (s : State) (payload : Bytes) : State :=
  if s.cfg.family.isLine then s else s.runCrc (crcSpan s.cfg payload)

/-- Framing several replies, one after another. -/
def State.runReplyCrcs (s : State) (ps : List Bytes) : State := ps.foldl State.runReplyCrc s

/-- `replies ++= [frame_reply(payload, d)]`. -/
def Ctx.reply (x : Ctx) (addr : Nat) (payload : Bytes) : Ctx :=
  { x with st := x.st.runReplyCrc payload, replies := x.replies ++ [frameReply x.st.cfg addr payload] }

/-- The reply of a set-class command on device `d`, where `SET_REPLY` gives one (43_dispatch.md R194). DESIGN CHOICE,
safe: it is handed the record with its `meas`, which 10_state.md R44 has read through other functions only (entry 17). -/
def Ctx.setReply (x : Ctx) (c : Cmd) (d : Nat) : Ctx :=
  match x.st.devs[d]? with
  | none => x
  | some dev =>
    match x.st.cfg.setReply c dev.blockView with
    | none => x
    | some r => x.reply dev.address r

/-- The end of a dispatch: the replies are emitted, the outcome logged, the frame discarded (43_dispatch.md R192). -/
def Ctx.finish (x : Ctx) (c : Cmd) : State :=
  ((x.st.emitAll x.replies).log (if x.oor then .outOfRange else .ok) c.args.addr (some c.kind)).dropFrame

/-- `dispatch(cmd, T)` for a rule of one target (43_dispatch.md R192), the targets resolved from the command's address:
none is AddressOutOfRange (60_exceptions.md R264). The rule is told whether it has several targets. -/
def dispatch (c : Cmd) (rule : Bool → Nat → Ctx → Ctx) (s : State) : State :=
  match targets s c.args.addr with
  | [] => s.raise .addressOutOfRange c.args.addr
  | d :: ds =>
    ((d :: ds).foldl (fun x t => rule (!ds.isEmpty) t x) { st := s, oor := false, replies := [] }).finish c

/-- The dispatch of a command without semantics: the mark, and nothing else (43_dispatch.md R192, 60_exceptions.md
R266). -/
def dispatchRefused (c : Cmd) (s : State) : State :=
  match targets s c.args.addr with
  | [] => s.raise .addressOutOfRange c.args.addr
  | _ :: _ => ({ s with refused := true }.log .refused c.args.addr (some c.kind)).dropFrame

end Sys2Proof.Machine
end

