-- ==== Sys2Proof/Machine/Agents.lean ====
section
/-! DEFINITION. The steps of the environment's agents: the sender path (60_exceptions.md R274), the serial transport
(R273), the host's shutdown (R275). -/

namespace Sys2Proof.Machine

/-- Insert a device id by its record's address. -/
def insertByAddress (devs : List Dev) (d : Nat) : List Nat → List Nat
  | [] => [d]
  | e :: t =>
    if (devs[d]?.map (·.address)).getD 0 ≤ (devs[e]?.map (·.address)).getD 0 then d :: e :: t
    else e :: insertByAddress devs d t

/-- `DevIds`, ascending by `Dev[d].address` (R274). -/
def idsByAddress (devs : List Dev) : List Nat := (List.range devs.length).foldr (insertByAddress devs) []

/-- `due(d)`: the device is CONTINUOUS and has never sent, or its interval has passed (R274). -/
def Dev.isDue (now : Nat) (d : Dev) : Bool :=
  d.mode == .continuous &&
    (match d.lastTx with
     | none => true
     | some t => d.interval ≤ now - t)

/-- The loop of SENDER_STEP over the devices still to serve: each due device asks the feed once (R274). -/
def serveDevices (s : State) : List Nat → List (Option Bytes) → State
  | [], _ => s
  | d :: ds, feed =>
    match s.devs[d]? with
    | none => serveDevices s ds feed
    | some dev =>
      if Dev.isDue s.now dev then
        match feed with
        | [] => s
        | none :: feed' => serveDevices s ds feed'
        | some m :: feed' =>
          serveDevices
            { s with
              devs := s.devs.set d { dev with meas := m }
              pending := s.pending ++ [(d, s.cfg.formatMeasurement { dev with meas := m })] }
            ds feed'
      else serveDevices s ds feed

/-- Some device is CONTINUOUS and its deadline has passed (R274). -/
def anyDue (s : State) : Bool := s.devs.any (Dev.isDue s.now)

/-- SENDER_STEP is enabled (R274). -/
def senderEnabled (s : State) : Bool := s.wake || anyDue s || s.shutdown

/-- After SENDER_STEP the sender writes its pending messages; with none it waits again. -/
def State.afterServe (s : State) : State :=
  { s with senderPhase := if s.pending = [] then .waiting else .collected }

/-- SENDER_STEP (R274); not enabled, the sender goes on waiting. -/
def senderStep (feed : List (Option Bytes)) (s : State) : State :=
  if s.shutdown then { s with senderPhase := .exited }
  else if senderEnabled s then (serveDevices { s with wake := false } (idsByAddress s.devs) feed).afterServe
  else s

/-- SENDER_WRITE (R274). -/
def senderWrite (s : State) : State := { s.emitAll (s.pending.map (·.2)) with senderPhase := .written }

/-- SENDER_STAMP (R274). -/
def senderStamp (s : State) : State :=
  { s.pending.foldl (fun t p => t.modifyDev p.1 fun d => { d with lastTx := some s.now }) s with
    pending := [], senderPhase := .waiting }

/-- The sender path's next step, `dt` hundredths after its last one (R274). -/
def senderMove (dt : Nat) (feed : List (Option Bytes)) (s : State) : State :=
  match s.senderPhase with
  | .waiting => senderStep feed { s with now := s.now + dt }
  | .collected => senderWrite { s with now := s.now + dt }
  | .written => senderStamp { s with now := s.now + dt }
  | .exited => s

/-- The transport takes the head message (R273). -/
def transmitMove (s : State) : State := { s with txq := s.txq.tail }

/-- `SHUTDOWN_STEP` (R275). -/
def shutdownMove (s : State) : State := { s with shutdown := true, wake := true }

end Sys2Proof.Machine
end

