-- ==== Sys2Proof/Machine/Flags.lean ====
section
/-! DEFINITION. The flags of the block (10_state.md R54) that a rule computes: the checksum-valid flag (41_framing.md
R145) and whether checking applies (R146); and the field writes with their effect on `WAKE` (43_dispatch.md R194 to
R198). -/

namespace Sys2Proof.Machine

/-- `chkvalid` of VERIFY_CRC: the field is HEX4 and its value is the CRC of the span (41_framing.md R145). -/
def chkvalidOf (cfg : Config) (crcfield span : Bytes) : Bool := parseHex4 crcfield == some (crc16 cfg.crcXorout span)

/-- VERIFY_CRC runs the CRC unit over the span, where the field is HEX4 (R145). -/
def State.runVerifyCrc (s : State) (crcfield span : Bytes) : State :=
  if (parseHex4 crcfield).isSome then s.runCrc span else s

/-- `chk_applies(targets)`: some target checks its checksums (R146). -/
def chkApplies (s : State) (ts : List Nat) : Bool := ts.any fun d => (s.devs[d]?.map (·.chkEn)).getD false

/-- `apply_field(d, f, p, legal)` (43_dispatch.md R194), with the wake-up of an interval write (R198). -/
def Ctx.applyNum (x : Ctx) (d : Nat) (f : NumField) (bound : Option Nat) (p : Param) : Ctx :=
  match p with
  | .keep => x
  | .value v =>
    if legalNum x.st.cfg f v && withinBound bound v then
      let y := x.onState (·.modifyDev d (·.setNum f v))
      if f = .interval then y.onState (·.wakeUp) else y
    else x.reject

/-- `apply_mask(d, field_mask, p)`: the whole mask or nothing (44_commands.md R227, 43_dispatch.md R195). -/
def Ctx.applyMask (x : Ctx) (d : Nat) (p : Param) : Ctx :=
  match p with
  | .keep => x
  | .value v =>
    if legalMask x.st.cfg v then x.onState (·.modifyDev d fun dev => { dev with fieldMask := v }) else x.reject

/-- A TEXT field of a schema: a missing text writes nothing (44_commands.md R224). -/
def Ctx.applyText (x : Ctx) (d : Nat) (f : TextField) (t : Option Bytes) : Ctx :=
  match t with
  | none => x
  | some t => x.onState (·.modifyDev d (·.setText f t))

/-- One schema entry on the field at its position (R224). DESIGN CHOICE, safe (entry 18): a MASK entry writes `field_mask`,
as R224's pseudocode does, where 10_state.md R37 names one command as its only writer. -/
def Ctx.applyEntry (x : Ctx) (c : Cmd) (d i : Nat) : SchemaEntry → Ctx
  | .num f form bound =>
    x.applyNum d f bound (param x.st.cfg (x.st.cfg.numericDefault.of f) c.args.fields i form.parse)
  | .text f => x.applyText d f c.args.fields[i]?
  | .mask => x.applyMask d (param x.st.cfg x.st.cfg.numericDefault.mask c.args.fields i parseUint)

/-- The entries of a schema from position `i` on, in order (R224). -/
def Ctx.applySchema (x : Ctx) (c : Cmd) (d : Nat) : Nat → List SchemaEntry → Ctx
  | _, [] => x
  | i, e :: es => (x.applyEntry c d i e).applySchema c d (i + 1) es

/-- `set_mode(d, m)`: the mode, then `wake()`, even when the mode is the old one (43_dispatch.md R196). -/
def Ctx.setMode (x : Ctx) (d : Nat) (m : Mode) : Ctx :=
  (x.onState (·.modifyDev d fun dev => { dev with mode := m })).onState (·.wakeUp)

/-! ## The generic rule of each class (43_dispatch.md R191) -/

/-- Set class (R194). -/
def setRule (c : Cmd) (schema : List SchemaEntry) (d : Nat) (x : Ctx) : Ctx := (x.applySchema c d 0 schema).setReply c d

/-- Bitmask set class (R195, 44_commands.md R227). -/
def maskRule (c : Cmd) (d : Nat) (x : Ctx) : Ctx :=
  (x.applyMask d (param x.st.cfg x.st.cfg.numericDefault.mask c.args.fields 0 parseUint)).setReply c d

/-- Query class: the reply is `QUERY_PAYLOAD` (R193). -/
def queryRule (c : Cmd) (d : Nat) (x : Ctx) : Ctx :=
  match x.st.devs[d]? with
  | none => x
  | some dev => x.reply dev.address (x.st.cfg.queryPayload c dev.blockView)

/-- Mode class (R196). -/
def modeRule (m : Mode) (d : Nat) (x : Ctx) : Ctx := x.setMode d m

/-- The class the configuration gives to a kind (44_commands.md R236). -/
def classOf (cfg : Config) (k : Kind) : Option CmdClass := (cfg.classes.find? fun e => e.1 == k).map (·.2)

/-- A command of a configured class; without a class it is refused (R236). DESIGN CHOICE, safe (entry 10): every query's
payload function is `QUERY_PAYLOAD`, and every bitmask set writes `field_mask` from field 0. -/
def dispatchClass (c : Cmd) (s : State) : State :=
  match classOf s.cfg c.kind with
  | none => dispatchRefused c s
  | some (.setClass schema) => dispatch c (fun _ => setRule c schema) s
  | some .maskClass => dispatch c (fun _ => maskRule c) s
  | some .queryClass => dispatch c (fun _ => queryRule c) s
  | some (.modeClass m) => dispatch c (fun _ => modeRule m) s

end Sys2Proof.Machine
end

