-- ==== Sys2Proof/Machine/Barometric.lean ====
section
/-! DEFINITION. The barometric family's commands (44_commands.md R220 to R222). -/

namespace Sys2Proof.Machine

/-- `A_SET(cmd, d)` (R220). -/
def aSetRule (c : Cmd) (d : Nat) (x : Ctx) : Ctx :=
  let pf := param x.st.cfg x.st.cfg.numericDefault.fmt c.args.fields 0 parseUint
  let pi := param x.st.cfg x.st.cfg.numericDefault.interval c.args.fields 1 parseFix2
  ((x.applyNum d .fmt none pf).applyNum d .interval none pi).setReply c d

/-- `A_QUERY(cmd, d)` (R221). -/
def aQueryRule (d : Nat) (x : Ctx) : Ctx :=
  match x.st.devs[d]? with
  | none => x
  | some dev => x.reply dev.address (dec dev.fmt ++ [Ascii.comma] ++ renderInterval dev.interval)

/-- `N_ADDR(cmd, d)` (R222). -/
def nAddrRule (c : Cmd) (several : Bool) (d : Nat) (x : Ctx) : Ctx :=
  if several then x.reject
  else
    match param x.st.cfg x.st.cfg.numericDefault.address c.args.fields 0 parseUint with
    | .keep => x
    | .value new =>
      match x.st.devs[d]? with
      | none => x
      | some dev =>
        if new > naddrMax || new > x.st.cfg.addrMax then x.reject
        else if new = dev.address then x.setReply c d
        else if (tabGet x.st.atab new).isSome then x.reject
        else (x.onState (·.moveDev d dev.address new)).setReply c d

/-- A_SET (R220). -/
def execASet (a : Args) (s : State) : Result :=
  .next (dispatch ⟨.autosend, a⟩ (fun _ => aSetRule ⟨.autosend, a⟩) s)

/-- A_QUERY (R221). -/
def execAQuery (a : Args) (s : State) : Result := .next (dispatch ⟨.autosend, a⟩ (fun _ => aQueryRule) s)

/-- N_ADDR (R222). -/
def execNAddr (a : Args) (s : State) : Result := .next (dispatch ⟨.addrReassign, a⟩ (nAddrRule ⟨.addrReassign, a⟩) s)

end Sys2Proof.Machine
end

