-- ==== Sys2Proof/Machine/ChecksumUnit.lean ====
section
/-! DEFINITION. The port operations of the CRC-16 unit and the XOR unit (40_checksum.md), and the direct operations of
the frame extractor (41_framing.md R139, R145). -/

namespace Sys2Proof.Machine

/-- CRC16_INIT (R110). -/
def execCrc16Init (s : State) : Result := .next { s with crcr := crcInit }

/-- CRC16_BYTE (R111). -/
def execCrc16Byte (b : Byte) (s : State) : Result := .next { s with crcr := crcByte s.crcr b }

/-- CRC16_FINAL: the value is returned, the accumulator is not changed (R113). -/
def execCrc16Final (s : State) : Result := .next { s with crcOut := s.crcr ^^^ s.cfg.crcXorout }

/-- XOR_INIT (R118). -/
def execXorInit (s : State) : Result := .next { s with xacc := 0#8 }

/-- XOR_BYTE (R119). -/
def execXorByte (b : Byte) (s : State) : Result := .next { s with xacc := s.xacc ^^^ b }

/-- EXTRACT_BLOCK (R139): the frame, or MalformedFrame. R139 gives it for the block families only. -/
def execExtractBlock (r : Bytes) (s : State) : Result :=
  if s.cfg.family.isLine then .fault .noBlockFraming
  else .next <|
    match extractBlock s.cfg r with
    | none => s.raise .malformedFrame none
    | some f => { s with frame := some f }

/-- VERIFY_CRC (R145): `chkvalid` of the frame, or ChecksumMismatch with the frame's address. -/
def execVerifyCrc (crcfield span : Bytes) (s : State) : Result :=
  .next <|
    let t := s.runVerifyCrc crcfield span
    if chkvalidOf s.cfg crcfield span then { t with frame := t.frame.map fun f => { f with chkvalid := true } }
    else t.raise .checksumMismatch (s.frame.bind (·.addr))

end Sys2Proof.Machine
end

