-- ==== Sys2Proof/Machine/ModeClass.lean ====
section
/-! DEFINITION. The mode-class commands (44_commands.md R229 to R232, R235) and the commands without semantics of the
source's own (R233, R234, R236). -/

namespace Sys2Proof.Machine

/-- `SEND(cmd, d)`: one output as a reply, and `wake()`; the mode is not written (R232). -/
def sendRule (d : Nat) (x : Ctx) : Ctx :=
  match x.st.devs[d]? with
  | none => x
  | some dev => (x.reply dev.address (x.st.cfg.formatMeasurement dev.blockView)).onState (·.wakeUp)

/-- START (R229). -/
def execStart (a : Args) (s : State) : Result := .next (dispatch ⟨.start, a⟩ (fun _ => modeRule .continuous) s)

/-- RUN (R230). -/
def execRun (a : Args) (s : State) : Result := .next (dispatch ⟨.run, a⟩ (fun _ => modeRule .continuous) s)

/-- STOP (R231). -/
def execStop (a : Args) (s : State) : Result := .next (dispatch ⟨.stop, a⟩ (fun _ => modeRule .stopped) s)

/-- SEND (R232). -/
def execSend (a : Args) (s : State) : Result := .next (dispatch ⟨.send, a⟩ (fun _ => sendRule) s)

/-- POLL (R235). -/
def execPoll (a : Args) (s : State) : Result := .next (dispatch ⟨.poll, a⟩ (fun _ => modeRule .polled) s)

/-- R: REFUSED, unless the configuration gives it a class (R233, R236). -/
def execR (a : Args) (s : State) : Result := .next (dispatchClass ⟨.r, a⟩ s)

/-- RESET: as R (R234). -/
def execReset (a : Args) (s : State) : Result := .next (dispatchClass ⟨.reset, a⟩ s)

/-- A configured keyword (R236). -/
def execConfigured (n : Nat) (a : Args) (s : State) : Result := .next (dispatchClass ⟨.configured n, a⟩ s)

end Sys2Proof.Machine
end

