-- ==== Sys2Proof/Machine/SetClass.lean ====
section
/-! DEFINITION. GET and the set-class commands (44_commands.md R223 to R228). -/

namespace Sys2Proof.Machine

/-- `FORM(cmd, d)` (R226). -/
def formRule (c : Cmd) (d : Nat) (x : Ctx) : Ctx :=
  (match x.st.cfg.compileFormat c.args.rawtail with
   | none => x.reject
   | some p => x.onState (·.modifyDev d fun dev => { dev with formatProgram := p })).setReply c d

/-- `PIN_CHECK` is off, or field 0 is the device's PIN, byte for byte (R228). -/
def pinOk (cfg : Config) (c : Cmd) (dev : Dev) : Bool :=
  match cfg.pinCheck with
  | .none => true
  | .requireMatch => c.args.fields[0]? == some dev.pin

/-- `CAL(cmd, d)` (R228). -/
def calRule (c : Cmd) (d : Nat) (x : Ctx) : Ctx :=
  match x.st.devs[d]? with
  | none => x
  | some dev =>
    if pinOk x.st.cfg c dev then
      match param x.st.cfg x.st.cfg.numericDefault.calPoint c.args.fields 1 parseUint, c.args.fields[2]? with
      | .value point, some v =>
        (x.onState (·.modifyDev d fun w => { w with calibration := tabSet w.calibration point v })).setReply c d
      | .value _, none => x
      | .keep, _ => x
    else x.reject

/-- GET (R223). -/
def execGet (a : Args) (s : State) : Result := .next (dispatch ⟨.get, a⟩ (fun _ => queryRule ⟨.get, a⟩) s)

/-- SET (R224). -/
def execSet (a : Args) (s : State) : Result :=
  .next (dispatch ⟨.set, a⟩ (fun _ => setRule ⟨.set, a⟩ s.cfg.setSchema) s)

/-- SETNC: every effect of SET (R225). -/
def execSetnc (a : Args) (s : State) : Result :=
  .next (dispatch ⟨.setnc, a⟩ (fun _ => setRule ⟨.setnc, a⟩ s.cfg.setSchema) s)

/-- FORM (R226). -/
def execForm (a : Args) (s : State) : Result := .next (dispatch ⟨.form, a⟩ (fun _ => formRule ⟨.form, a⟩) s)

/-- FMASK (R227). -/
def execFmask (a : Args) (s : State) : Result := .next (dispatch ⟨.fmask, a⟩ (fun _ => maskRule ⟨.fmask, a⟩) s)

/-- CAL (R228). -/
def execCal (a : Args) (s : State) : Result := .next (dispatch ⟨.cal, a⟩ (fun _ => calRule ⟨.cal, a⟩) s)

end Sys2Proof.Machine
end

