-- ==== Sys2Proof/Machine/Receive.lean ====
section
/-! DEFINITION. The frame step (43_dispatch.md R199) and the receive step RX_BYTE (41_framing.md R130 to R135). -/

namespace Sys2Proof.Machine

/-- The meaning of a Command, by its kind (43_dispatch.md R191). -/
def execCmd (c : Cmd) (s : State) : Result :=
  match c.kind with
  | .autosend => if c.args.query then execAQuery c.args s else execASet c.args s
  | .addrReassign => execNAddr c.args s
  | .get => execGet c.args s
  | .set => execSet c.args s
  | .setnc => execSetnc c.args s
  | .form => execForm c.args s
  | .fmask => execFmask c.args s
  | .cal => execCal c.args s
  | .start => execStart c.args s
  | .run => execRun c.args s
  | .stop => execStop c.args s
  | .poll => execPoll c.args s
  | .send => execSend c.args s
  | .r => execR c.args s
  | .reset => execReset c.args s
  | .configured n => execConfigured n c.args s

/-- The last stages of a frame step: the payload becomes a command, which is dispatched (R199). -/
def runPayload (addr : Option Nat) (payload : Bytes) (s : State) : Result :=
  match tokenize s.cfg addr payload with
  | none => .next (s.raise .unknownCommand addr)
  | some c => execCmd c s

/-- The checksum stage of a line frame: `LINE_CHECK` (R199, 41_framing.md R138). DESIGN CHOICE, safe (entry 19): a
configured check applies in both line families, as R199's frame_step_line has it, where 00_scope.md R3 and 41_framing.md R137
give `LINE_KEYWORD` no checksum. -/
def checkLine (line : Bytes) (f : Frame) (ts : List Nat) (s : State) : Result :=
  match s.cfg.lineCheck with
  | none => runPayload f.addr f.payload s
  | some chk =>
    if chkApplies s ts then
      if chk.passes line then runPayload f.addr (chk.stripped f.payload) s
      else .next (s.raise .checksumMismatch f.addr)
    else runPayload f.addr f.payload s

/-- The checksum stage of a block frame: VERIFY_CRC (R199, R145). -/
def checkBlock (f : Frame) (ts : List Nat) (s : State) : Result :=
  if chkApplies s ts then
    let crcfield := f.crcfield.getD []
    let t := s.runVerifyCrc crcfield f.span
    if chkvalidOf s.cfg crcfield f.span then runPayload f.addr f.payload t
    else .next (t.raise .checksumMismatch f.addr)
  else runPayload f.addr f.payload s

/-- `frame_step_line` and `frame_step_block` (R199). -/
def frameStep (raw : Bytes) (s : State) : Result :=
  match locateFrame s.cfg raw with
  | none => .next (s.raise .malformedFrame none)
  | some f =>
    match targets s f.addr with
    | [] => .next (s.raise .addressOutOfRange f.addr)
    | d :: ds => if s.cfg.family.isLine then checkLine raw f (d :: ds) s else checkBlock f (d :: ds) s

/-- A terminator: the end of a discarded line, an empty line, or a frame (41_framing.md R131, R133, R134). -/
def receiveTerminator (b : Byte) (s : State) : Result :=
  if s.rxdisc then .next (s.setRx [] false)
  else if s.cfg.family.isLine then
    if s.rxbuf = [] then .next s else frameStep s.rxbuf (s.setRx [] false)
  else frameStep (s.rxbuf ++ [b]) (s.setRx [] false)

/-- `overflow(b)` (R132). -/
def overflow (b : Byte) (s : State) : State :=
  match s.cfg.overflowResync with
  | .skipToTerminator => (s.log .overflow none none).setRx [] true
  | .restart => (s.log .overflow none none).setRx [b] s.rxdisc

/-- A data byte (R131, R134). -/
def receiveData (b : Byte) (s : State) : State :=
  if s.rxdisc then s
  else if s.rxbuf.length = s.cfg.rxbufMax then overflow b s
  else s.setRx (s.rxbuf ++ [b]) false

/-- RX_BYTE (R130). After SHUTDOWN it is not enabled: nothing changes (60_exceptions.md R275, R301). -/
def execRxByte (b : Byte) (s : State) : Result :=
  if s.shutdown then .next s
  else if s.cfg.family.isTerminator b then receiveTerminator b s
  else .next (receiveData b s)

end Sys2Proof.Machine
end

