-- ==== Sys2Proof/Machine/Dispatch.lean ====
section
/-! DEFINITION. The meaning of each instruction: one arm for each constructor of Instr. -/

namespace Sys2Proof.Machine

def exec (i : Instr) (s : State) : Host.Outcome State Fault Refusal :=
  match i with
  | .crc16Init => Sys2Proof.Machine.execCrc16Init s
  | .crc16Byte b => Sys2Proof.Machine.execCrc16Byte b s
  | .crc16Final => Sys2Proof.Machine.execCrc16Final s
  | .xorInit => Sys2Proof.Machine.execXorInit s
  | .xorByte b => Sys2Proof.Machine.execXorByte b s
  | .rxByte b => Sys2Proof.Machine.execRxByte b s
  | .extractBlock r => Sys2Proof.Machine.execExtractBlock r s
  | .verifyCrc crcfield span => Sys2Proof.Machine.execVerifyCrc crcfield span s
  | .aSet a => Sys2Proof.Machine.execASet a s
  | .aQuery a => Sys2Proof.Machine.execAQuery a s
  | .nAddr a => Sys2Proof.Machine.execNAddr a s
  | .get a => Sys2Proof.Machine.execGet a s
  | .set a => Sys2Proof.Machine.execSet a s
  | .setnc a => Sys2Proof.Machine.execSetnc a s
  | .form a => Sys2Proof.Machine.execForm a s
  | .fmask a => Sys2Proof.Machine.execFmask a s
  | .cal a => Sys2Proof.Machine.execCal a s
  | .start a => Sys2Proof.Machine.execStart a s
  | .run a => Sys2Proof.Machine.execRun a s
  | .stop a => Sys2Proof.Machine.execStop a s
  | .send a => Sys2Proof.Machine.execSend a s
  | .poll a => Sys2Proof.Machine.execPoll a s
  | .r a => Sys2Proof.Machine.execR a s
  | .reset a => Sys2Proof.Machine.execReset a s

end Sys2Proof.Machine
end

