-- ==== Sys2Proof/Machine/Step.lean ====
section
/-! DEFINITION. One step: the next move of an agent (60_exceptions.md R273). A port transaction is decoded and executed.
With no move to take the block is idle (41_framing.md R135). -/

namespace Sys2Proof.Machine

/-- One move on a state from whose `inbox` it has been taken. -/
def stepMove (m : Move) (s : State) : Host.Outcome State Fault Refusal :=
  match m with
  | .port p data =>
    match decode s.cfg (.port p data) with
    | .ok i => exec i s
    | .error _ => .fault .portData
  | .noByte => .next s
  | .sender dt feed => .next (senderMove dt feed s)
  | .transmit => .next (transmitMove s)
  | .shutdown => .next (shutdownMove s)

/-- One step of the machine. -/
def step (s : State) : Host.Outcome State Fault Refusal :=
  match s.inbox with
  | [] => .next s
  | m :: rest => stepMove m { s with inbox := rest }

/-- Delivery of a byte to the receive port (41_framing.md R130). -/
def deliver (b : Byte) : Move := .port .rxByte [[b]]

/-- The state with a byte program at the serial transport (70_reset_and_hazards.md R303). -/
def State.loadProgram (s : State) (p : Bytes) : State := { s with inbox := p.map deliver }

/-- The state in which the table word's frame stands in `RXBUF` and its terminator is the next byte (entry 11): the
family is the one `decodeTableWord` reads the word in. -/
def State.withFetchWord (s : State) (nbits w : Nat) : State :=
  let bs := tableBytes nbits w
  let cfg := s.cfg.toFamily ((tableFamily bs).getD .lineComma)
  let t := if cfg.family.isLine then Ascii.cr else Ascii.etx
  { s with
    cfg := cfg
    rxbuf := if cfg.family.isLine then bs else (frameBlock cfg bs).dropLast
    rxdisc := false
    shutdown := false
    inbox := [deliver t] }

end Sys2Proof.Machine
end

