-- ==== Sys2Proof/WellFormed.lean ====
section
/-! DEFINITION. Well-formed configurations (70_reset_and_hazards.md R292, 00_scope.md R7) and well-formed instructions
(30_encoding.md). -/

namespace Sys2Proof

/-- Every field of a record is legal (10_state.md R46), and its calibration map is in the canonical form. -/
abbrev Dev.legal (cfg : Config) (d : Dev) : Prop :=
  d.interval ≤ intervalMax ∧ d.fmt ≤ fmtMax ∧ d.filter ≤ cfg.filterMax ∧ d.rhThreshold ≤ rhMax ∧
    d.units ∈ cfg.unitCodes ∧ d.address ≤ cfg.addrMax ∧ legalMask cfg d.fieldMask = true ∧
    Machine.tabWf d.calibration

/-- A keyword is a non-empty string of ASCII bytes (30_encoding.md R86). -/
abbrev asciiKeyword (k : Bytes) : Prop := k ≠ [] ∧ ∀ b ∈ k, b < 0x80#8

/-- The launch premises of R292, the value ranges of R7, and keywords as R86 has them. -/
abbrev Config.wf (cfg : Config) : Prop :=
  (cfg.crcXorout = 0x0000#16 ∨ cfg.crcXorout = 0xFFFF#16) ∧ 1 ≤ cfg.rxbufMax ∧
    (cfg.addrMax = 9 ∨ cfg.addrMax = 98 ∨ cfg.addrMax = 255) ∧
    (∀ d ∈ cfg.devices, d.legal cfg) ∧
    (cfg.devices.map (·.address)).Nodup ∧
    (cfg.unaddressedTarget = .defaultDev → cfg.defaultDev < cfg.devices.length) ∧
    (cfg.table.map fun e => foldBytes e.1).Nodup ∧ ∀ e ∈ cfg.table, asciiKeyword e.1

/-- A keyword holds no byte that could end it early: no boundary byte, colon or terminator; and it is not empty
(30_encoding.md R86). -/
abbrev plainKeyword (f : Family) (k : Bytes) : Prop :=
  k ≠ [] ∧ ∀ b ∈ k, f.isBoundary b = false ∧ b ≠ Ascii.colon ∧ f.isTerminator b = false

/-- A keyword table whose words are read back: every keyword plain, no two equal under `fold` (42_tokenizer.md R160). -/
abbrev Config.plainTable (cfg : Config) : Prop :=
  (∀ e ∈ cfg.table, plainKeyword cfg.family e.1) ∧ (cfg.table.map fun e => foldBytes e.1).Nodup

/-- The address a format can carry (R81 to R85): a prefix where the line family has one, an `id` always in
`BLOCK_COLON`, none in `BLOCK_SPACE`. -/
def Args.addrFits (cfg : Config) (a : Args) : Bool :=
  match cfg.family with
  | .lineComma => a.addr.isNone || cfg.addrPrefixEn
  | .lineKeyword => a.addr.isNone || cfg.addrPrefixEn
  | .blockSpace => a.addr.isNone
  | .blockColon => a.addr.isSome

/-- The fields are the tail's (42_tokenizer.md R167, R168): the pieces of the raw tail, or in `BLOCK_COLON` colon-free
fields whose joining is the raw tail. -/
def Args.fieldsFit (cfg : Config) (a : Args) : Bool :=
  match cfg.family with
  | .blockColon =>
    a.rawtail == (a.fields.flatMap (Ascii.colon :: ·)).drop 1 && a.fields.all fun f => !f.contains Ascii.colon
  | _ => a.fields == split a.rawtail cfg.family.delim

/-- No terminator inside the frame (30_encoding.md R93). -/
def Args.noTerminator (cfg : Config) (a : Args) : Bool := a.rawtail.all fun b => !cfg.family.isTerminator b

/-- The kind has a keyword in the table (42_tokenizer.md R161). -/
def Kind.spelled (cfg : Config) (k : Kind) : Bool := (cfg.table.map Prod.snd).contains k

/-- A command that its family's format can carry. -/
def Cmd.wf (cfg : Config) (c : Cmd) : Bool :=
  c.kind.spelled cfg && c.args.addrFits cfg && c.args.fieldsFit cfg && c.args.noTerminator cfg

/-- A well-formed instruction: a port operation of any operands; an `A` whose form is its row's (43_dispatch.md R191);
any other command that its format can carry. -/
def Instr.wellFormed (cfg : Config) : Instr → Bool
  | .crc16Init => true
  | .crc16Byte _ => true
  | .crc16Final => true
  | .xorInit => true
  | .xorByte _ => true
  | .rxByte _ => true
  | .extractBlock _ => true
  | .verifyCrc _ _ => true
  | .aSet a => Cmd.wf cfg ⟨.autosend, a⟩ && !a.query
  | .aQuery a => Cmd.wf cfg ⟨.autosend, a⟩ && a.query
  | .nAddr a => Cmd.wf cfg ⟨.addrReassign, a⟩
  | .get a => Cmd.wf cfg ⟨.get, a⟩
  | .set a => Cmd.wf cfg ⟨.set, a⟩
  | .setnc a => Cmd.wf cfg ⟨.setnc, a⟩
  | .form a => Cmd.wf cfg ⟨.form, a⟩
  | .fmask a => Cmd.wf cfg ⟨.fmask, a⟩
  | .cal a => Cmd.wf cfg ⟨.cal, a⟩
  | .start a => Cmd.wf cfg ⟨.start, a⟩
  | .run a => Cmd.wf cfg ⟨.run, a⟩
  | .stop a => Cmd.wf cfg ⟨.stop, a⟩
  | .send a => Cmd.wf cfg ⟨.send, a⟩
  | .poll a => Cmd.wf cfg ⟨.poll, a⟩
  | .r a => Cmd.wf cfg ⟨.r, a⟩
  | .reset a => Cmd.wf cfg ⟨.reset, a⟩

end Sys2Proof
end

