-- ==== Sys2Proof/Safety.lean ====
section
/-! DEFINITION. The terms in which statements speak of the machine: its invariant, runs of a byte program, the result of
a command on all its targets, and independent readings of rules that the model computes another way. -/

namespace Sys2Proof.Machine

/-! ## The invariant -/

/-- `RXBUF` and `RXDISC` (10_state.md R23, R24; 41_framing.md R134): the buffer is within its bound, holds no
terminator, and is empty while bytes are discarded. -/
def State.RxOk (s : State) : Prop :=
  s.rxbuf.length ≤ s.cfg.rxbufMax ∧ (∀ b ∈ s.rxbuf, s.cfg.family.isTerminator b = false) ∧
    (s.rxdisc = true → s.rxbuf = [] ∧ s.cfg.overflowResync = .skipToTerminator)

/-- The address table invariant `ATAB[a] = some d <=> Dev[d].address = a` (10_state.md R47), on a table in its canonical
form. -/
def State.TableOk (s : State) : Prop :=
  tabWf s.atab ∧ ∀ a d, tabGet s.atab a = some d ↔ ∃ v, s.devs[d]? = some v ∧ v.address = a

/-- The records are those of `DEVICES` (10_state.md R27: no command creates or destroys one), and every field of each is
legal (R46). -/
def State.DevsOk (s : State) : Prop := s.devs.length = s.cfg.devices.length ∧ ∀ v ∈ s.devs, v.legal s.cfg

/-- The sender path (60_exceptions.md R274): nothing is pending while it waits or after it has exited, what is pending is
of devices that exist, and no timestamp is ahead of its clock. -/
def State.SenderOk (s : State) : Prop :=
  (s.senderPhase = .waiting ∨ s.senderPhase = .exited → s.pending = []) ∧
    (∀ p ∈ s.pending, p.1 < s.devs.length) ∧ ∀ v ∈ s.devs, ∀ t, v.lastTx = some t → t ≤ s.now

/-- The invariant of the machine under a well-formed configuration (70_reset_and_hazards.md R292). -/
structure State.Inv (s : State) : Prop where
  cfg : s.cfg.wf
  rx : s.RxOk
  table : s.TableOk
  devs : s.DevsOk
  sender : s.SenderOk

/-- The clean-entry premise (70_reset_and_hazards.md R294). -/
def State.CleanEntry (s : State) : Prop :=
  s.rxbuf = [] ∧ s.rxdisc = false ∧ s.wake = false ∧ s.shutdown = false ∧ s.refused = false ∧ s.txq = [] ∧
    s.outlog = [] ∧ (∀ v ∈ s.devs, v.lastTx = none) ∧ s.pending = [] ∧ s.TableOk

/-! ## Runs -/

/-- Instructions one after another, as long as each gives a next state. -/
def execAll : List Instr → State → Result
  | [], s => .next s
  | i :: is, s =>
    match exec i s with
    | .next t => execAll is t
    | .fault f => .fault f
    | .refused r => .refused r

/-- `run(P)` from a state: `RX_BYTE` over every byte of `P`, no other agent between (70_reset_and_hazards.md R303). -/
def runBytes (p : Bytes) (s : State) : Result := execAll (p.map Instr.rxByte) s

/-! ## The result of a command -/

/-- The replies of the targets, in their order: the address and the payload of each record that has one. -/
def repliesOf (devs : List Dev) (ts : List Nat) (pay : Dev → Option Bytes) : List (Nat × Bytes) :=
  ts.filterMap fun d => devs[d]?.bind fun v => (pay v).map fun p => (v.address, p)

/-- The records after a change of the targets'. -/
def updateAll (devs : List Dev) (ts : List Nat) (upd : Dev → Dev) : List Dev :=
  devs.mapIdx fun i v => if i ∈ ts then upd v else v

/-- `dispatch(cmd, T)` as one equation, for a command that treats every target alike (43_dispatch.md R192): each target's
record changed by `upd`; OutOfRange where some target's record is in `rej`; `WAKE` set where `wakes`; a reply of payload
`pay` of each changed record, in the order of `T`; one log entry; the frame discarded; every other field as before, but
for the CRC unit, which ran over each reply of a block family (R197). -/
def dispatchAll (s : State) (c : Cmd) (ts : List Nat) (upd : Dev → Dev) (rej : Dev → Bool) (wakes : Bool)
    (pay : Dev → Option Bytes) : State :=
  let devs := updateAll s.devs ts upd
  let rs := repliesOf devs ts pay
  let t := s.runReplyCrcs (rs.map (·.2))
  let oor := ts.any fun d => (s.devs[d]?.map rej).getD false
  { t with
    devs := devs
    wake := s.wake || wakes
    txq := s.txq ++ rs.map fun r => frameReply s.cfg r.1 r.2
    outlog := s.outlog ++ [⟨if oor then .outOfRange else .ok, c.args.addr, some c.kind⟩]
    frame := none }

/-- The targets of a command: some, all different, each with a record. Under the invariant every address that does not
end in AddressOutOfRange gives such a list. -/
abbrev GoodTargets (s : State) (a : Option Nat) : Prop :=
  targets s a ≠ [] ∧ (targets s a).Nodup ∧ ∀ d ∈ targets s a, d < s.devs.length

/-- `SET_REPLY` (00_scope.md R8), read from a record. -/
def setReplyOf (cfg : Config) (c : Cmd) (v : Dev) : Option Bytes :=
  cfg.setReply c v.blockView

/-- A value that a field accepts: present or defaulted, and legal (43_dispatch.md R194). -/
def accepted (cfg : Config) (f : NumField) (bound : Option Nat) : Param → Option Nat
  | .keep => none
  | .value v => if legalNum cfg f v && withinBound bound v then some v else none

/-- A value that a field rejects. -/
def rejected (cfg : Config) (f : NumField) (bound : Option Nat) : Param → Bool
  | .keep => false
  | .value v => !(legalNum cfg f v && withinBound bound v)

/-- The parameter a schema entry reads at its position. -/
def numParam (cfg : Config) (c : Cmd) (i : Nat) (f : NumField) (form : NumForm) : Param :=
  param cfg (cfg.numericDefault.of f) c.args.fields i form.parse

/-- The parameter a mask reads at its position. -/
def maskParam (cfg : Config) (c : Cmd) (i : Nat) : Param := param cfg cfg.numericDefault.mask c.args.fields i parseUint

/-- A record after a mask command: the whole mask, or nothing (43_dispatch.md R195). -/
def maskedDev (cfg : Config) (p : Param) (v : Dev) : Dev :=
  match p with
  | .keep => v
  | .value m => if legalMask cfg m then { v with fieldMask := m } else v

/-- A mask that is rejected. -/
def maskRejected (cfg : Config) : Param → Bool
  | .keep => false
  | .value m => !legalMask cfg m

/-- A record after the schema entry at position `i` (44_commands.md R224). -/
def entryDev (cfg : Config) (c : Cmd) (i : Nat) (e : SchemaEntry) (v : Dev) : Dev :=
  match e with
  | .num f form bound =>
    match accepted cfg f bound (numParam cfg c i f form) with
    | some n => v.setNum f n
    | none => v
  | .text f =>
    match c.args.fields[i]? with
    | some t => v.setText f t
    | none => v
  | .mask => maskedDev cfg (maskParam cfg c i) v

/-- The schema entry at position `i` is rejected. -/
def entryRejected (cfg : Config) (c : Cmd) (i : Nat) : SchemaEntry → Bool
  | .num f form bound => rejected cfg f bound (numParam cfg c i f form)
  | .text _ => false
  | .mask => maskRejected cfg (maskParam cfg c i)

/-- The schema entry at position `i` writes the interval. -/
def entryWakes (cfg : Config) (c : Cmd) (i : Nat) : SchemaEntry → Bool
  | .num .interval form bound => (accepted cfg .interval bound (numParam cfg c i .interval form)).isSome
  | _ => false

/-- A record after a whole schema, entry by entry in order (43_dispatch.md R194). -/
def schemaDev (cfg : Config) (c : Cmd) (schema : List SchemaEntry) (v : Dev) : Dev :=
  schema.zipIdx.foldl (fun w e => entryDev cfg c e.2 e.1 w) v

/-- Some entry of the schema is rejected. -/
def schemaRejected (cfg : Config) (c : Cmd) (schema : List SchemaEntry) : Bool :=
  schema.zipIdx.any fun e => entryRejected cfg c e.2 e.1

/-- Some entry of the schema writes the interval. -/
def schemaWakes (cfg : Config) (c : Cmd) (schema : List SchemaEntry) : Bool :=
  schema.zipIdx.any fun e => entryWakes cfg c e.2 e.1

/-- A record after `FORM` (44_commands.md R226). -/
def formDev (cfg : Config) (c : Cmd) (v : Dev) : Dev :=
  match cfg.compileFormat c.args.rawtail with
  | none => v
  | some p => { v with formatProgram := p }

/-- The point and value that CAL writes: a point present or defaulted, and a third field (44_commands.md R228). -/
def calEntry (cfg : Config) (c : Cmd) : Option (Nat × Bytes) :=
  match param cfg cfg.numericDefault.calPoint c.args.fields 1 parseUint, c.args.fields[2]? with
  | .value point, some t => some (point, t)
  | .value _, none => none
  | .keep, _ => none

/-- A record after `CAL` (44_commands.md R228). -/
def calDev (cfg : Config) (c : Cmd) (v : Dev) : Dev :=
  match calEntry cfg c with
  | none => v
  | some e => if pinOk cfg c v then { v with calibration := tabSet v.calibration e.1 e.2 } else v

/-- CAL replies only where it has written (44_commands.md R228). -/
def calReply (cfg : Config) (c : Cmd) (v : Dev) : Option Bytes :=
  if pinOk cfg c v && (calEntry cfg c).isSome then setReplyOf cfg c v else none

/-- The result of a set-class command with a schema (44_commands.md R224). -/
def setResult (s : State) (c : Cmd) (schema : List SchemaEntry) : State :=
  dispatchAll s c (targets s c.args.addr) (schemaDev s.cfg c schema) (fun _ => schemaRejected s.cfg c schema)
    (schemaWakes s.cfg c schema) (setReplyOf s.cfg c)

/-- The result of a mask command (44_commands.md R227). -/
def maskResult (s : State) (c : Cmd) : State :=
  dispatchAll s c (targets s c.args.addr) (maskedDev s.cfg (maskParam s.cfg c 0))
    (fun _ => maskRejected s.cfg (maskParam s.cfg c 0)) false (setReplyOf s.cfg c)

/-- The result of a mode command (43_dispatch.md R196). -/
def modeResult (s : State) (c : Cmd) (m : Mode) : State :=
  dispatchAll s c (targets s c.args.addr) (fun v => { v with mode := m }) (fun _ => false) true (fun _ => none)

/-- The result of a query (43_dispatch.md R193): no record changes, one reply for each target. -/
def queryResult (s : State) (c : Cmd) (wakes : Bool) (pay : Dev → Bytes) : State :=
  dispatchAll s c (targets s c.args.addr) id (fun _ => false) wakes (fun v => some (pay v))

/-- The result of a command without semantics (60_exceptions.md R266). -/
def refusedResult (s : State) (c : Cmd) : State :=
  { s with refused := true, outlog := s.outlog ++ [⟨.refused, c.args.addr, some c.kind⟩], frame := none }

/-- The result of a command of a configured class (44_commands.md R236). -/
def classResult (s : State) (c : Cmd) : State :=
  match classOf s.cfg c.kind with
  | none => refusedResult s c
  | some (.setClass schema) => setResult s c schema
  | some .maskClass => maskResult s c
  | some .queryClass => queryResult s c false fun v => s.cfg.queryPayload c v.blockView
  | some (.modeClass m) => modeResult s c m

/-! ## Independent readings -/

/-- One bit of a message through the CRC register, the bit compared with bit 15 (40_checksum.md R111, R115). -/
def crcBit (acc : Half) (bit : Bool) : Half := if acc.msb != bit then (acc <<< 1) ^^^ 0x1021#16 else acc <<< 1

/-- The bits of a byte, most significant first. -/
def bitsMsbFirst (b : Byte) : List Bool := (List.range 8).map fun i => b.getLsbD (7 - i)

/-- `R[i .. j)` (00_scope.md R10). -/
def slice (r : Bytes) (i j : Nat) : Bytes := (r.take j).drop i

/-- `i` is the first index from `lo` on at which `r` holds `b`. -/
abbrev FirstAt (r : Bytes) (b : Byte) (lo i : Nat) : Prop := lo ≤ i ∧ r[i]? = some b ∧ ∀ j < i, lo ≤ j → r[j]? ≠ some b

/-- `i` is the last index strictly between `lo` and `hi` at which `r` holds `b`. -/
abbrev LastBetween (r : Bytes) (b : Byte) (lo hi i : Nat) : Prop :=
  lo < i ∧ i < hi ∧ r[i]? = some b ∧ ∀ j < hi, i < j → r[j]? ≠ some b

/-- `crc_span(R, s, c)` by its indices (41_framing.md R142). -/
def spanAt (cfg : Config) (r : Bytes) (s c : Nat) : Bytes :=
  slice r (if cfg.crcSpanStx then s else s + 1) (if cfg.crcSpanDelim then c + 1 else c)

/-- The state with other timestamps in its records. -/
def State.withLastTx (s : State) (f : Nat → Option Nat) : State :=
  { s with devs := s.devs.mapIdx fun i v => { v with lastTx := f i } }

/-- The state with other entries before its log. -/
def State.withLogBefore (s : State) (l : List LogEntry) : State := { s with outlog := l ++ s.outlog }

/-- A result with its next state changed. -/
def mapNext (f : State → State) : Result → Result
  | .next t => .next (f t)
  | .fault e => .fault e
  | .refused r => .refused r

/-- What a terminator hands to the frame step: the line, or the block with its ETX (41_framing.md R131, R134). -/
def pendingFrame (s : State) (b : Byte) : Bytes := if s.cfg.family.isLine then s.rxbuf else s.rxbuf ++ [b]

/-- The byte completes a frame: the receive path is on, the byte is a terminator, no line is being discarded, and a line
is not empty (41_framing.md R130 to R134). -/
abbrev CompletesFrame (s : State) (b : Byte) : Prop :=
  s.shutdown = false ∧ s.cfg.family.isTerminator b = true ∧ s.rxdisc = false ∧
    (s.cfg.family.isLine = true → s.rxbuf ≠ [])

/-- The state in which a frame step begins: `RXBUF` cleared (41_framing.md R131, R134). -/
def State.taken (s : State) : State := { s with rxbuf := [], rxdisc := false }

/-- The checksum of a block frame is right: HEX4, and the CRC of the span (41_framing.md R145). -/
def CrcRight (cfg : Config) (f : Frame) : Prop :=
  ∃ h, f.crcfield = some h ∧ parseHex4 h = some (crc16 cfg.crcXorout f.span)

end Sys2Proof.Machine
end

