-- ==== Sys2Proof/Certificates/Slice0/Obligations.lean ====
section
/-! DEFINITION. The statements for the provers. Each says in its docstring which rule of spec/ it formalises. -/

open Sys2Proof Sys2Proof.Machine

/-! ## The checksum units -/

/-- R110, R113, R118, R119: CRC16_INIT loads 0xFFFF; CRC16_FINAL returns the accumulator under the final XOR and leaves
it; XOR_INIT clears XACC; XOR_BYTE folds one byte into it. None changes anything else. `crcOut` is the model's place for the
value returned (entry 6). -/
def Obligations.ChecksumPortSteps : Prop :=
  ∀ s : State, exec .crc16Init s = .next { s with crcr := 0xFFFF#16 } ∧
    exec .crc16Final s = .next { s with crcOut := s.crcr ^^^ s.cfg.crcXorout } ∧
    exec .xorInit s = .next { s with xacc := 0x00#8 } ∧
    ∀ b : Byte, exec (.xorByte b) s = .next { s with xacc := s.xacc ^^^ b }

/-- R111, read bit by bit: CRC16_BYTE takes the bits of its byte through the register, most significant first. -/
def Obligations.Crc16ByteIsBitSerialMsbFirst : Prop :=
  ∀ (b : Byte) (s : State), exec (.crc16Byte b) s = .next { s with crcr := (bitsMsbFirst b).foldl crcBit s.crcr }

/-- R112: CRC16_INIT, CRC16_BYTE over a string in index order and CRC16_FINAL compute its CRC.
`crcOut` is the model's place for the value returned (entry 6). -/
def Obligations.CrcPortsComputeCrc16 : Prop :=
  ∀ (bs : Bytes) (s : State),
    execAll ([.crc16Init] ++ bs.map Instr.crc16Byte ++ [.crc16Final]) s =
      .next { s with crcr := bs.foldl crcByte 0xFFFF#16, crcOut := crc16 s.cfg.crcXorout bs }

/-- A one-byte change of the input changes the CRC (95_test_vectors.md 2.1, from R111 and R115). -/
def Obligations.CrcDetectsEveryOneByteChange : Prop :=
  ∀ (xorout : Half) (p q : Bytes) (b b' : Byte), b ≠ b' → crc16 xorout (p ++ b :: q) ≠ crc16 xorout (p ++ b' :: q)

/-- R120: XOR_INIT and XOR_BYTE over a string leave its checksum, which does not depend on the bytes' order. -/
def Obligations.XorPortsComputeChecksum : Prop :=
  ∀ (bs bs' : Bytes) (s : State), bs.Perm bs' →
    execAll (.xorInit :: bs.map Instr.xorByte) s = .next { s with xacc := xorChecksum bs' }

/-- R121: the checksum of the empty and of the absent string is 0, and concatenation is exclusive or. -/
def Obligations.XorChecksumLaws : Prop :=
  xorChecksum [] = 0x00#8 ∧ xorChecksumOpt none = 0x00#8 ∧
    (∀ bs, xorChecksumOpt (some bs) = xorChecksum bs) ∧
    ∀ s t, xorChecksum (s ++ t) = xorChecksum s ^^^ xorChecksum t

/-! ## Frame extraction and verification -/

/-- R140, R142, R144 by their indices: EXTRACT_BLOCK cuts the frame at the first STX and the first ETX after it: in
`BLOCK_COLON` at the last colon before the ETX and the last colon before that one; in `BLOCK_SPACE` at the last space.
`chkvalid` is left to VERIFY_CRC. `frame` is the model's place for the frame cut, which R25 calls transient (entry 6). -/
def Obligations.ExtractBlockCutsByIndex : Prop :=
  (∀ (s : State) (r : Bytes) (i e c1 c2 : Nat), s.cfg.family = .blockColon →
    FirstAt r Ascii.stx 0 i → FirstAt r Ascii.etx (i + 1) e →
    LastBetween r Ascii.colon i e c1 → LastBetween r Ascii.colon i c1 c2 → c2 + 1 < c1 →
    ∃ chk, exec (.extractBlock r) s = .next { s with frame := some (Frame.mk .blockColon none (slice r (i + 1) c2)
      (some (slice r (c2 + 1) c1)) (spanAt s.cfg r i c2) chk) }) ∧
  (∀ (s : State) (r : Bytes) (i e c : Nat), s.cfg.family = .blockSpace →
    FirstAt r Ascii.stx 0 i → FirstAt r Ascii.etx (i + 1) e → LastBetween r Ascii.space i e c → c + 1 < e →
    ∃ chk, exec (.extractBlock r) s = .next { s with frame := some (Frame.mk .blockSpace none (slice r (i + 1) c)
      (some (slice r (c + 1) e)) (spanAt s.cfg r i c) chk) })

/-- R140, R143, R144, R147: where a control byte, a boundary or the CRC field is missing, EXTRACT_BLOCK is a
MalformedFrame: a log entry, and no frame. `frame` is the model's place for one (entry 6). -/
def Obligations.ExtractBlockMalformed : Prop :=
  ∀ (s : State) (r : Bytes),
    (s.cfg.family = .blockColon ∧ ¬ ∃ i e c1 c2, FirstAt r Ascii.stx 0 i ∧ FirstAt r Ascii.etx (i + 1) e ∧
        LastBetween r Ascii.colon i e c1 ∧ LastBetween r Ascii.colon i c1 c2 ∧ c2 + 1 < c1) ∨
      (s.cfg.family = .blockSpace ∧ ¬ ∃ i e c, FirstAt r Ascii.stx 0 i ∧ FirstAt r Ascii.etx (i + 1) e ∧
        LastBetween r Ascii.space i e c ∧ c + 1 < e) →
    exec (.extractBlock r) s =
      .next { s with outlog := s.outlog ++ [⟨.malformedFrame, none, none⟩], frame := none }

/-- R139 gives EXTRACT_BLOCK for the block families only; in a line family the model stops by name (its own choice,
entry 13). -/
def Obligations.ExtractBlockStopsInLineFamilies : Prop :=
  ∀ (s : State) (r : Bytes), s.cfg.family = .lineComma ∨ s.cfg.family = .lineKeyword →
    exec (.extractBlock r) s = .fault .noBlockFraming

/-- R145, R262: VERIFY_CRC accepts a field that is HEX4 and the CRC of the span; any other field is a ChecksumMismatch
with the configured error reply. The CRC unit runs where the field is HEX4.
That the CRC unit's registers show the run, and that the frame stands in `frame`, is the model's (entry 6). -/
def Obligations.VerifyCrcAcceptsOrRaises : Prop :=
  ∀ (s : State) (h span : Bytes),
    (parseHex4 h = some (crc16 s.cfg.crcXorout span) →
      exec (.verifyCrc h span) s = .next
        { s with
          crcr := crcFold 0xFFFF#16 span, crcOut := crc16 s.cfg.crcXorout span
          frame := s.frame.map fun f => { f with chkvalid := true } }) ∧
    (∀ w, parseHex4 h = some w → w ≠ crc16 s.cfg.crcXorout span →
      exec (.verifyCrc h span) s = .next
        { s with
          crcr := crcFold 0xFFFF#16 span, crcOut := crc16 s.cfg.crcXorout span
          txq := s.txq ++ s.cfg.errReplyChecksum.toList
          outlog := s.outlog ++ [⟨.checksumMismatch, s.frame.bind (·.addr), none⟩]
          frame := none }) ∧
    (parseHex4 h = none →
      exec (.verifyCrc h span) s = .next
        { s with
          txq := s.txq ++ s.cfg.errReplyChecksum.toList
          outlog := s.outlog ++ [⟨.checksumMismatch, s.frame.bind (·.addr), none⟩]
          frame := none })

/-- R12, R89, R117: `hex4` writes four uppercase digits, most significant first. A field is HEX4 with the value it
renders, in either case of its letters, and no other field is HEX4. -/
def Obligations.HexFieldReadsBackInEitherCase : Prop :=
  (∀ v : Half,
    let digit := fun n : Nat => BitVec.ofNat 8 (if n < 10 then 0x30 + n else 0x41 + (n - 10))
    let n := v.toNat
    hex4 v = [digit (n / 4096 % 16), digit (n / 256 % 16), digit (n / 16 % 16), digit (n % 16)]) ∧
  (∀ v : Half, parseHex4 (hex4 v) = some v) ∧ (∀ h : Bytes, parseHex4 (foldBytes h) = parseHex4 h) ∧
  ∀ (h : Bytes) (v : Half), parseHex4 h = some v ↔ foldBytes h = hex4 v

/-- R197: the layout of a reply in each family; and a block reply extracts and verifies as an incoming frame does, for a
payload that holds no ETX. That EXTRACT_BLOCK leaves its frame in `frame` is the model's (entry 6). -/
def Obligations.ReplyFramingAndReadBack : Prop :=
  ∀ (s : State) (addr : Nat) (p : Bytes),
    (s.cfg.family = .lineComma ∨ s.cfg.family = .lineKeyword →
      frameReply s.cfg addr p =
        s.cfg.replyPrefix addr ++ p ++ s.cfg.replyTerm) ∧
    (s.cfg.family = .blockColon →
      frameReply s.cfg addr p =
        [0x02#8] ++ p ++ [0x3A#8] ++ hex4 (crc16 s.cfg.crcXorout
          ((if s.cfg.crcSpanStx then [0x02#8] else []) ++ p ++ (if s.cfg.crcSpanDelim then [0x3A#8] else []))) ++
          [0x3A#8] ++ [0x03#8]) ∧
    (s.cfg.family = .blockSpace →
      frameReply s.cfg addr p =
        [0x02#8] ++ p ++ [0x20#8] ++ hex4 (crc16 s.cfg.crcXorout
          ((if s.cfg.crcSpanStx then [0x02#8] else []) ++ p ++ (if s.cfg.crcSpanDelim then [0x20#8] else []))) ++
          [0x03#8]) ∧
    (s.cfg.family = .blockColon ∨ s.cfg.family = .blockSpace → Ascii.etx ∉ p →
      ∃ f, exec (.extractBlock (frameReply s.cfg addr p)) s = .next { s with frame := some f } ∧ f.payload = p ∧
        f.span = crcSpan s.cfg p ∧ CrcRight s.cfg f)

/-! ## Encoding -/

/-- Decode and encode agree for every well-formed instruction, under every configuration whose keywords are plain
words. -/
def Obligations.DecodeOfEncode : Prop :=
  ∀ (cfg : Config) (i : Instr), cfg.plainTable → i.wellFormed cfg = true → decode cfg (encode cfg i) = .ok i

/-- A few words of the spec decode to what they stand for (95_test_vectors.md W4, W8, P5, P6; opcode_table.json). -/
def Obligations.SampleWordsDecode : Prop :=
  decode (Config.forFamily .lineComma) (.wire [0x41#8, 0x2C#8, 0x31#8, 0x2C#8, 0x32#8, 0x2E#8, 0x35#8, 0x30#8]) =
      .ok (.aSet ⟨none, [[0x31#8], [0x32#8, 0x2E#8, 0x35#8, 0x30#8]],
        [0x31#8, 0x2C#8, 0x32#8, 0x2E#8, 0x35#8, 0x30#8]⟩) ∧
    decode (Config.forFamily .blockColon) (.wire [0x02#8, 0x47#8, 0x45#8, 0x54#8, 0x3A#8, 0x31#8, 0x3A#8, 0x38#8,
        0x32#8, 0x36#8, 0x44#8, 0x3A#8, 0x03#8]) = .ok (.get ⟨some 1, [], []⟩) ∧
    decode (Config.forFamily .blockSpace) (.wire [0x02#8, 0x53#8, 0x54#8, 0x4F#8, 0x50#8, 0x20#8, 0x34#8, 0x45#8,
        0x36#8, 0x37#8, 0x03#8]) = .ok (.stop ⟨none, [], []⟩) ∧
    decode (Config.forFamily .lineKeyword) (.wire [0x52#8, 0x45#8, 0x53#8, 0x45#8, 0x54#8]) =
      .ok (.reset ⟨none, [], []⟩) ∧
    decode (Config.forFamily .lineKeyword) (.wire [0x52#8, 0x45#8, 0x53#8]) = .error .unknownCommand ∧
    decode (Config.forFamily .lineComma) (.port .crc16Byte [[0x41#8]]) = .ok (.crc16Byte 0x41#8)

/-- R160, R162: `match_keyword` answers an entry of the table that stands, under `fold`, at the start of the string
before a boundary or the end, none such being longer; it answers nothing exactly where no entry does; and the letter
case of the received bytes does not change the answer. Under a well-formed configuration no keyword matches the empty
string (R86, 92 D43). A boundary is space, tab, `?`, `=` or the delimiter (R87); `fold` makes a lowercase letter
uppercase (R162); the table is the family's, with FMASK and CAL where configured (R161). -/
def Obligations.KeywordMatchIsLongestInAnyCase : Prop :=
  ∀ (cfg : Config) (p : Bytes),
    let stands := fun k : Bytes => k.length ≤ p.length ∧ foldBytes (p.take k.length) = foldBytes k ∧
      ∀ c, p[k.length]? = some c → c ∈ [0x20#8, 0x09#8, 0x3F#8, 0x3D#8, cfg.family.delim]
    (∀ k kind, matchKeyword cfg p = some (k, kind) →
      (k, kind) ∈ cfg.table ∧ stands k ∧ ∀ e ∈ cfg.table, stands e.1 → e.1.length ≤ k.length) ∧
    (matchKeyword cfg p = none ↔ ∀ e ∈ cfg.table, ¬ stands e.1) ∧
    (∀ q : Bytes, foldBytes p = foldBytes q → matchKeyword cfg p = matchKeyword cfg q) ∧
    (cfg.wf → matchKeyword cfg [] = none) ∧
    (∀ b : Byte, foldByte b = if 0x61#8 ≤ b ∧ b ≤ 0x7A#8 then b &&& 0xDF#8 else b) ∧
    ∀ e, e ∈ cfg.table ↔
      e ∈ cfg.keywords ∨ (cfg.kwFmask = some e.1 ∧ e.2 = .fmask) ∨ (cfg.kwCal = some e.1 ∧ e.2 = .cal)

/-- R168: `split` cuts at every occurrence of the delimiter: no field holds one, and the fields joined by it are the
string; the empty string has no fields. R3: the delimiter of each family. R163: the tail after a keyword is empty at
the end of the payload; it keeps a `?`, and loses any other boundary byte. R168 to R170: the command of a payload is
its keyword's, with the tail whole and cut into fields, and there is none where no keyword matches. R167: in
`BLOCK_COLON` the keyword is the whole of the first field, the parameters follow the second, and the raw tail is what
follows the second colon. R165: a line's prefix of digits and a colon is its address, where it is enabled; without one
the line is all payload. R171: `A` is the query where the first field is exactly `?`. -/
def Obligations.SplitCutsAtEveryDelimiter : Prop :=
  (∀ (t : Bytes) (d : Byte),
    split [] d = [] ∧ (∀ f ∈ split t d, d ∉ f) ∧ [d].intercalate (split t d) = t ∧
      (t ≠ [] → (split t d).length = t.count d + 1)) ∧
  (Family.lineComma.delim = 0x2C#8 ∧ Family.blockColon.delim = 0x3A#8 ∧ Family.blockSpace.delim = 0x20#8 ∧
    Family.lineKeyword.delim = 0x20#8) ∧
  (∀ (p : Bytes) (n : Nat),
    (p.length ≤ n → tailOf p n = []) ∧
      ∀ c, p[n]? = some c → tailOf p n = if c = 0x3F#8 then p.drop n else p.drop (n + 1)) ∧
  (∀ (cfg : Config) (addr : Option Nat) (p : Bytes),
    (cfg.family ≠ .blockColon →
      (matchKeyword cfg p = none → tokenize cfg addr p = none) ∧
      ∀ k kind, matchKeyword cfg p = some (k, kind) →
        let tail := tailOf p k.length
        tokenize cfg addr p = some ⟨kind, ⟨addr, split tail cfg.family.delim, tail⟩⟩) ∧
    (cfg.family = .blockColon → ∀ kw id fields, split p 0x3A#8 = kw :: id :: fields →
      (∀ k kind, matchKeyword cfg kw = some (k, kind) → k.length = kw.length →
        tokenize cfg addr p = some ⟨kind, ⟨addr, fields, p.drop (kw.length + 1 + id.length + 1)⟩⟩) ∧
      ((∀ e, matchKeyword cfg kw = some e → e.1.length ≠ kw.length) → tokenize cfg addr p = none))) ∧
  (∀ (cfg : Config) (line : Bytes), cfg.family.isLine = true →
    let digits := fun w : Bytes => w ≠ [] ∧ ∀ b ∈ w, 0x30#8 ≤ b ∧ b ≤ 0x39#8
    let frame := fun (addr : Option Nat) (payload : Bytes) =>
      some { family := cfg.family, addr := addr, payload := payload, crcfield := none, span := [], chkvalid := true : Frame }
    (∀ w rest, cfg.addrPrefixEn = true → digits w → line = w ++ 0x3A#8 :: rest →
      locateFrame cfg line = frame (some (Nat.ofDigits 10 (w.reverse.map fun b => b.toNat - 48))) rest) ∧
    (cfg.addrPrefixEn = false ∨ (¬ ∃ w rest, digits w ∧ line = w ++ 0x3A#8 :: rest) →
      locateFrame cfg line = frame none line)) ∧
  ∀ a : Args, instrOf ⟨.autosend, a⟩ =
    if a.fields.head? = some [0x3F#8] then .ok (.aQuery a) else .ok (.aSet a)

/-- R12, R89, R172, R221: `dec` is read back by form UINT as the number it renders, and has no leading zero; a rendered
interval is read back by form FIX2 as the interval it renders. UINT reads non-empty strings of digits and nothing else, as
their decimal value. FIX2 reads digits with an optional point and fraction and nothing else: the integer part in
hundredths plus the first two fraction digits, missing ones 0, further ones dropped. `param` takes a field that its form
reads; for a missing or unparsable field it takes the default, or keeps, as the policy says. -/
def Obligations.RenderedNumbersReadBack : Prop :=
  (∀ n : Nat, parseUint (dec n) = some n ∧ ((dec n).head? = some 0x30#8 → n = 0 ∧ dec n = [0x30#8]) ∧
    parseFix2 (renderInterval n) = some n) ∧
  (∀ (bs : Bytes) (n : Nat),
    let digits := fun w : Bytes => ∀ b ∈ w, 0x30#8 ≤ b ∧ b ≤ 0x39#8
    let value := fun w : Bytes => Nat.ofDigits 10 (w.reverse.map fun b => b.toNat - 48)
    let digit := fun (w : Bytes) (i : Nat) => (w[i]?.map fun b => b.toNat - 48).getD 0
    (parseUint bs = some n ↔ bs ≠ [] ∧ digits bs ∧ n = value bs) ∧
    (parseFix2 bs = some n ↔ ∃ whole frac : Bytes, whole ≠ [] ∧ digits whole ∧ digits frac ∧
      (bs = whole ∧ frac = [] ∨ bs = whole ++ 0x2E#8 :: frac) ∧
      n = 100 * value whole + 10 * digit frac 0 + digit frac 1)) ∧
  ∀ (cfg : Config) (dflt : Nat) (fields : List Bytes) (i : Nat) (form : Bytes → Option Nat),
    (∀ t v, fields[i]? = some t → form t = some v → param cfg dflt fields i form = .value v) ∧
    (fields.length ≤ i ∨ (∃ t, fields[i]? = some t ∧ form t = none) →
      (cfg.missingFieldPolicy = .useDefault → param cfg dflt fields i form = .value dflt) ∧
      (cfg.missingFieldPolicy = .keep → param cfg dflt fields i form = .keep))

/-! ## Commands -/

/-- R264: a command with no target changes nothing but the log (and drops the frame it came in). That the entry of a
command without an address has no address, where R190 raises with address 0, is deduced from R260 (entry 14). -/
def Obligations.CommandWithoutTargetOnlyLogs : Prop :=
  ∀ (i : Instr) (c : Cmd) (s : State), i.toCmd? = some c → targets s c.args.addr = [] →
    exec i s = .next { s with outlog := s.outlog ++ [⟨.addressOutOfRange, c.args.addr, none⟩], frame := none }

/-- R190: the targets of each address, as the addressing rule lists them. An absent address is address 0. Under ADDR0 it
has the device there, or none; under BROADCAST the devices of all occupied addresses, in ascending address order; under
DEFAULT_DEV that device. Any other address has its device, or none where it is free or past the bound. -/
def Obligations.TargetsOfAnAddress : Prop :=
  ∀ (s : State) (a : Option Nat) (d : Nat),
    targets s none = targets s (some 0) ∧
    (a.getD 0 = 0 → s.cfg.unaddressedTarget = .addr0 →
      (targets s a = [d] ↔ tabGet s.atab 0 = some d) ∧ (targets s a = [] ↔ tabGet s.atab 0 = none)) ∧
    (a.getD 0 = 0 → s.cfg.unaddressedTarget = .broadcast →
      ∃ xs : List Nat, xs.Pairwise (· < ·) ∧
        (∀ x, x ∈ xs ↔ x ≤ s.cfg.addrMax ∧ tabGet s.atab x ≠ none) ∧
        List.Forall₂ (fun x e => tabGet s.atab x = some e) xs (targets s a)) ∧
    (a.getD 0 = 0 → s.cfg.unaddressedTarget = .defaultDev → targets s a = [s.cfg.defaultDev]) ∧
    (a.getD 0 ≠ 0 → (targets s a = [d] ↔ a.getD 0 ≤ s.cfg.addrMax ∧ tabGet s.atab (a.getD 0) = some d)) ∧
    (a.getD 0 ≠ 0 → (targets s a = [] ↔ s.cfg.addrMax < a.getD 0 ∨ tabGet s.atab (a.getD 0) = none))

/-- Under the invariant every address that has targets has different ones, each with a record (R47). -/
def Obligations.TargetsAreGoodUnderInvariant : Prop :=
  ∀ (s : State) (a : Option Nat), s.Inv → targets s a ≠ [] → GoodTargets s a

/-- R220: `A` sets format and interval of every target, each held to its bound on its own; the interval's write wakes
the sender; one rejected field is OutOfRange. `SET_REPLY` is handed the record with its `meas` and without its
`last_tx` (entries 17 and 9). The CRC registers after a block reply are the model's (entry 6). -/
def Obligations.ASetWritesFormatAndInterval : Prop :=
  ∀ (a : Args) (s : State), GoodTargets s a.addr →
    let pf := param s.cfg s.cfg.numericDefault.fmt a.fields 0 parseUint
    let pi := param s.cfg s.cfg.numericDefault.interval a.fields 1 parseFix2
    let newFmt := fun v : Dev => match pf with
      | .value n => if n ≤ 12 then n else v.fmt
      | .keep => v.fmt
    let newInterval := fun v : Dev => match pi with
      | .value n => if n ≤ 999900 then n else v.interval
      | .keep => v.interval
    exec (.aSet a) s = .next
      (dispatchAll s ⟨.autosend, a⟩ (targets s a.addr)
        (fun v => { v with fmt := newFmt v, interval := newInterval v })
        (fun _ => (match pf with | .value n => 12 < n | .keep => false) ||
          (match pi with | .value n => 999900 < n | .keep => false))
        (match pi with | .value n => n ≤ 999900 | .keep => false)
        (setReplyOf s.cfg ⟨.autosend, a⟩))

/-- R221: `A,?` replies the format and the rendered interval of each target, and changes no record. An interval renders
as whole seconds where it has no fraction, with one fraction digit where the second is 0, else with two. The CRC
registers after a block reply are the model's (entry 6). -/
def Obligations.AQueryRepliesFormatAndInterval : Prop :=
  ∀ (a : Args) (s : State), GoodTargets s a.addr →
    let render := fun n : Nat =>
      let q := n / 100
      let r := n % 100
      if r = 0 then dec q
      else if r % 10 = 0 then dec q ++ [0x2E#8] ++ dec (r / 10)
      else dec q ++ [0x2E#8] ++ [BitVec.ofNat 8 (0x30 + r / 10), BitVec.ofNat 8 (0x30 + r % 10)]
    exec (.aQuery a) s = .next
      (queryResult s ⟨.autosend, a⟩ false fun v => dec v.fmt ++ [0x2C#8] ++ render v.interval)

/-- R222 and R69: an accepted `N` moves the device: the old entry gone, the new one there, the record's address with
it, every other address as before. `SET_REPLY` is handed the record with its `meas` and without its `last_tx` (entries
17 and 9). The CRC registers after a block reply are the model's (entry 6). -/
def Obligations.NAddrMovesTheDevice : Prop :=
  ∀ (a : Args) (s : State) (d new : Nat) (v : Dev), targets s a.addr = [d] → s.devs[d]? = some v →
    param s.cfg s.cfg.numericDefault.address a.fields 0 parseUint = .value new →
    new ≤ 98 → new ≤ s.cfg.addrMax → new ≠ v.address → tabGet s.atab new = none →
    ∃ tab, exec (.nAddr a) s = .next
        { dispatchAll s ⟨.addrReassign, a⟩ [d] (fun v => { v with address := new }) (fun _ => false) false
            (setReplyOf s.cfg ⟨.addrReassign, a⟩) with atab := tab } ∧
      tabGet tab v.address = none ∧ tabGet tab new = some d ∧
      (∀ x, x ≠ v.address → x ≠ new → tabGet tab x = tabGet s.atab x) ∧ (tabWf s.atab → tabWf tab)

/-- R222: `N` with several targets, past a bound, or to an occupied address is OutOfRange and changes nothing. -/
def Obligations.NAddrRejects : Prop :=
  ∀ (a : Args) (s : State) (d : Nat) (ds : List Nat), targets s a.addr = d :: ds →
    (ds ≠ [] ∨ ∃ v new, s.devs[d]? = some v ∧
      param s.cfg s.cfg.numericDefault.address a.fields 0 parseUint = .value new ∧
      (98 < new ∨ s.cfg.addrMax < new ∨ (new ≠ v.address ∧ tabGet s.atab new ≠ none))) →
    exec (.nAddr a) s = .next
      { s with outlog := s.outlog ++ [⟨.outOfRange, a.addr, some .addrReassign⟩], frame := none }

/-- R222: `N` to the device's own address, and `N` whose field is kept, change no address; the first replies as an
accepted command does. `SET_REPLY` is handed the record with its `meas` and without its `last_tx` (entries 17 and 9).
The CRC registers after a block reply are the model's (entry 6). -/
def Obligations.NAddrWithoutMove : Prop :=
  ∀ (a : Args) (s : State) (d : Nat) (v : Dev), targets s a.addr = [d] → s.devs[d]? = some v →
    (param s.cfg s.cfg.numericDefault.address a.fields 0 parseUint = .value v.address → v.address ≤ 98 →
      v.address ≤ s.cfg.addrMax →
      exec (.nAddr a) s = .next
        (dispatchAll s ⟨.addrReassign, a⟩ [d] id (fun _ => false) false (setReplyOf s.cfg ⟨.addrReassign, a⟩))) ∧
    (param s.cfg s.cfg.numericDefault.address a.fields 0 parseUint = .keep →
      exec (.nAddr a) s = .next
        { s with outlog := s.outlog ++ [⟨.ok, a.addr, some .addrReassign⟩], frame := none })

/-- R223: GET replies `QUERY_PAYLOAD` of each target, and changes no record. What the reply's external function is
handed has no `last_tx`, the model's reading of R45 and R273 (entry 9). The CRC registers after a block reply are the
model's (entry 6). -/
def Obligations.GetRepliesQueryPayload : Prop :=
  ∀ (a : Args) (s : State), GoodTargets s a.addr →
    exec (.get a) s = .next
      (queryResult s ⟨.get, a⟩ false fun v => s.cfg.queryPayload ⟨.get, a⟩ v.blockView)

/-- R224, R225: SET and SETNC write the schema's fields positionally, each on its own; they differ in the kind they log
and hand to `SET_REPLY` only. `SET_REPLY` is handed the record with its `meas` and without its `last_tx` (entries 17
and 9). The CRC registers after a block reply are the model's (entry 6). That a MASK entry of the schema writes the
mask is the model's choice (entry 18). So is that an entry of `fmt` writes it (entry 20), and that every record has
`rh_threshold` (entry 21). So is that an entry may have either numeric form on any numeric field (entry 22). -/
def Obligations.SetAndSetncApplyTheSchema : Prop :=
  ∀ (a : Args) (s : State), GoodTargets s a.addr →
    exec (.set a) s = .next (setResult s ⟨.set, a⟩ s.cfg.setSchema) ∧
      exec (.setnc a) s = .next (setResult s ⟨.setnc, a⟩ s.cfg.setSchema)

/-- R194, R195, R224 on the fields of a record: an entry that stands in a schema without another entry of its field
takes effect whatever its siblings do. A numeric entry, of any field, form and bound of its own, leaves its field at a
value that is legal for the field and within the entry's bound, and at any other value as it was, rejecting it; the
sender is woken by an accepted interval only. A text entry writes the text that is there; a mask entry writes the whole
mask, or rejects it whole. That a MASK entry of a schema writes the mask, beside R37, is the model's choice (entry 18).
So is that an entry of `fmt` writes it (entry 20), and that every record has `rh_threshold` (entry 21). So is that an
entry may have either numeric form on any numeric field (entry 22). -/
def Obligations.SchemaFieldIsIndependent : Prop :=
  ∀ (cfg : Config) (c : Cmd) (pre post : List SchemaEntry) (v : Dev),
    (∀ (f : NumField) (form : NumForm) (bound : Option Nat),
      (∀ e ∈ pre ++ post, ∀ g b, e ≠ .num f g b) →
      let field := fun w : Dev => match f with
        | .interval => w.interval
        | .fmt => w.fmt
        | .filter => w.filter
        | .rhThreshold => w.rhThreshold
        | .units => w.units
        | .chkEn => if w.chkEn then 1 else 0
      let legal := fun n : Nat => (match f with
        | .interval => n ≤ 999900
        | .fmt => n ≤ 12
        | .filter => n ≤ cfg.filterMax
        | .rhThreshold => n ≤ 100
        | .units => n ∈ cfg.unitCodes
        | .chkEn => n = 0 ∨ n = 1) ∧ ∀ m, bound = some m → n ≤ m
      let p := param cfg (cfg.numericDefault.of f) c.args.fields pre.length form.parse
      let after := schemaDev cfg c (pre ++ .num f form bound :: post) v
      (∀ n, p = .value n → legal n →
        field after = n ∧ entryRejected cfg c pre.length (.num f form bound) = false ∧
          (entryWakes cfg c pre.length (.num f form bound) = true ↔ f = .interval)) ∧
      (∀ n, p = .value n → ¬ legal n →
        field after = field v ∧ entryRejected cfg c pre.length (.num f form bound) = true ∧
          entryWakes cfg c pre.length (.num f form bound) = false) ∧
      (p = .keep →
        field after = field v ∧ entryRejected cfg c pre.length (.num f form bound) = false ∧
          entryWakes cfg c pre.length (.num f form bound) = false)) ∧
    (∀ f : TextField, .text f ∉ pre ++ post →
      let field := fun w : Dev => match f with
        | .comm => w.comm
        | .pin => w.pin
        | .message => w.message
      field (schemaDev cfg c (pre ++ .text f :: post) v) = c.args.fields[pre.length]?.getD (field v)) ∧
    (.mask ∉ pre ++ post →
      let p := param cfg cfg.numericDefault.mask c.args.fields pre.length parseUint
      let legal := fun m : Nat =>
        m < 2 ^ cfg.fieldMaskWidth ∧ ∀ i, m.testBit i = true → cfg.fieldMaskValid.testBit i = true
      let after := schemaDev cfg c (pre ++ .mask :: post) v
      (∀ m, p = .value m → legal m → after.fieldMask = m ∧ entryRejected cfg c pre.length .mask = false) ∧
      (∀ m, p = .value m → ¬ legal m →
        after.fieldMask = v.fieldMask ∧ entryRejected cfg c pre.length .mask = true) ∧
      (p = .keep → after.fieldMask = v.fieldMask ∧ entryRejected cfg c pre.length .mask = false))

/-- R226: FORM replaces the program whole where the text compiles; where it does not, it changes no record and is
OutOfRange. R8: the external functions are the configuration's. Whatever they are, some configuration, the same but for
them, has their values at any finite number of arguments (how a configuration holds a function is the model's, entry
9). `SET_REPLY` is handed the record with its `meas` and without its `last_tx` (entries 17 and 9). The CRC registers
after a block reply are the model's (entry 6). -/
def Obligations.FormReplacesTheProgram : Prop :=
  (∀ (a : Args) (s : State), GoodTargets s a.addr →
    exec (.form a) s = .next
      (match s.cfg.compileFormat a.rawtail with
       | some p =>
         dispatchAll s ⟨.form, a⟩ (targets s a.addr) (fun v => { v with formatProgram := p }) (fun _ => false) false
           (setReplyOf s.cfg ⟨.form, a⟩)
       | none =>
         dispatchAll s ⟨.form, a⟩ (targets s a.addr) id (fun _ => true) false (setReplyOf s.cfg ⟨.form, a⟩))) ∧
  ∀ (cfg : Config) (compile : Bytes → Option CompiledFormat) (measure : Dev → Bytes) (query : Family → Cmd → Dev → Bytes)
    (reply : Family → Cmd → Dev → Option Bytes) (texts : List Bytes) (devs : List Dev) (cmds : List (Cmd × Dev)),
    ∃ c m q r,
      let cfg' := { cfg with compileFormatFn := c, formatMeasurementFn := m, queryPayloadFn := q, setReplyFn := r }
      (∀ t ∈ texts, cfg'.compileFormat t = compile t) ∧ (∀ v ∈ devs, cfg'.formatMeasurement v = measure v) ∧
        ∀ x ∈ cmds, cfg'.queryPayload x.1 x.2 = query cfg.family x.1 x.2 ∧
          cfg'.setReply x.1 x.2 = reply cfg.family x.1 x.2

/-- R227, R195: a mask that fits the width and has no reserved bit is written whole; any other is rejected whole.
`SET_REPLY` is handed the record with its `meas` and without its `last_tx` (entries 17 and 9). The CRC registers after
a block reply are the model's (entry 6). -/
def Obligations.FmaskIsAllOrNothing : Prop :=
  ∀ (a : Args) (s : State), GoodTargets s a.addr →
    let p := param s.cfg s.cfg.numericDefault.mask a.fields 0 parseUint
    (∀ m, p = .value m → m < 2 ^ s.cfg.fieldMaskWidth → (∀ i, m.testBit i = true → s.cfg.fieldMaskValid.testBit i = true) →
      exec (.fmask a) s = .next
        (dispatchAll s ⟨.fmask, a⟩ (targets s a.addr) (fun v => { v with fieldMask := m }) (fun _ => false) false
          (setReplyOf s.cfg ⟨.fmask, a⟩))) ∧
    (∀ m, p = .value m →
      (2 ^ s.cfg.fieldMaskWidth ≤ m ∨ ∃ i, m.testBit i = true ∧ s.cfg.fieldMaskValid.testBit i = false) →
      exec (.fmask a) s = .next
        (dispatchAll s ⟨.fmask, a⟩ (targets s a.addr) id (fun _ => true) false (setReplyOf s.cfg ⟨.fmask, a⟩))) ∧
    (p = .keep →
      exec (.fmask a) s = .next
        (dispatchAll s ⟨.fmask, a⟩ (targets s a.addr) id (fun _ => false) false (setReplyOf s.cfg ⟨.fmask, a⟩)))

/-- R228: CAL writes one calibration point of the targets whose PIN matches (or of all, where the check is off); a
mismatch is OutOfRange and changes that record in nothing; it replies only where it has written. `SET_REPLY` is handed
the record with its `meas` and without its `last_tx` (entries 17 and 9). The CRC registers after a block reply are the
model's (entry 6). -/
def Obligations.CalWritesThePointBehindThePin : Prop :=
  ∀ (a : Args) (s : State), GoodTargets s a.addr →
    let ok := fun v : Dev => decide (s.cfg.pinCheck = .none ∨ a.fields[0]? = some v.pin)
    let p := param s.cfg s.cfg.numericDefault.calPoint a.fields 1 parseUint
    (∀ n t, p = .value n → a.fields[2]? = some t →
      exec (.cal a) s = .next
        (dispatchAll s ⟨.cal, a⟩ (targets s a.addr)
          (fun v => if ok v then { v with calibration := tabSet v.calibration n t } else v) (fun v => !ok v) false
          (fun v => if ok v then setReplyOf s.cfg ⟨.cal, a⟩ v else none))) ∧
    (p = .keep ∨ a.fields[2]? = none →
      exec (.cal a) s = .next
        (dispatchAll s ⟨.cal, a⟩ (targets s a.addr) id (fun v => !ok v) false (fun _ => none)))

/-- R229, R230, R231, R235, R196, R202: START and RUN enter CONTINUOUS, STOP enters STOPPED, POLL enters POLLED, from
every mode, on every target, and wake the sender. -/
def Obligations.ModeCommandsSetModeAndWake : Prop :=
  ∀ (a : Args) (s : State), GoodTargets s a.addr →
    let after := fun (k : Kind) (m : Mode) =>
      { s with
        devs := updateAll s.devs (targets s a.addr) fun v => { v with mode := m }
        wake := true
        outlog := s.outlog ++ [⟨.ok, a.addr, some k⟩]
        frame := none }
    exec (.start a) s = .next (after .start .continuous) ∧ exec (.run a) s = .next (after .run .continuous) ∧
      exec (.stop a) s = .next (after .stop .stopped) ∧ exec (.poll a) s = .next (after .poll .polled)

/-- R232: SEND replies one output of each target, wakes the sender, and changes no record. What the reply's external
function is handed has no `last_tx`, the model's reading of R45 and R273 (entry 9). The CRC registers after a block
reply are the model's (entry 6). -/
def Obligations.SendRepliesOneOutputAndWakes : Prop :=
  ∀ (a : Args) (s : State), GoodTargets s a.addr →
    exec (.send a) s = .next
      (queryResult s ⟨.send, a⟩ true fun v => s.cfg.formatMeasurement v.blockView)

/-- R233, R234, R266: without a configured class, R and RESET set REFUSED, log it, and change nothing else. -/
def Obligations.RAndResetAreRefused : Prop :=
  ∀ (a : Args) (s : State), targets s a.addr ≠ [] →
    (classOf s.cfg .r = none →
      exec (.r a) s = .next
        { s with refused := true, outlog := s.outlog ++ [⟨.refused, a.addr, some .r⟩], frame := none }) ∧
    (classOf s.cfg .reset = none →
      exec (.reset a) s = .next
        { s with refused := true, outlog := s.outlog ++ [⟨.refused, a.addr, some .reset⟩], frame := none })

/-- R236: R, RESET and every configured keyword follow the generic rule of the class the configuration gives them.
R199: RX_BYTE runs a configured keyword so, where its frame has targets and its checksum is right or not checked; a
line that passes its check goes on with the stripped payload. The payload function of a query class and the field of a
mask class are the model's (entry 10); so is what a reply's external function is handed (entries 9 and 17). The CRC
registers after a block reply are the model's (entry 6). That a line check leaves the accumulators as they were is the
model's choice (entry 9); so are that LINE_CHECK applies in `LINE_KEYWORD` too (entry 19), and that a MASK entry of a
configured schema writes the mask (entry 18) and an entry of `fmt` writes that (entry 20). So is that such an entry may
have either numeric form (entry 22). -/
def Obligations.ConfiguredCommandsFollowTheirClass : Prop :=
  (∀ (a : Args) (n : Nat) (s : State), GoodTargets s a.addr →
    exec (.r a) s = .next (classResult s ⟨.r, a⟩) ∧ exec (.reset a) s = .next (classResult s ⟨.reset, a⟩) ∧
      execCmd ⟨.configured n, a⟩ s = .next (classResult s ⟨.configured n, a⟩)) ∧
  ∀ (b : Byte) (s : State) (f : Frame) (n : Nat) (a : Args), CompletesFrame s b →
    locateFrame s.cfg (pendingFrame s b) = some f → GoodTargets s f.addr →
    let checks := ∃ d v, d ∈ targets s f.addr ∧ s.devs[d]? = some v ∧ v.chkEn = true
    (tokenize s.cfg f.addr f.payload = some ⟨.configured n, a⟩ →
      (¬ checks ∨ s.cfg.family.isLine = true ∧ s.cfg.lineCheck = none →
        exec (.rxByte b) s = .next (classResult s.taken ⟨.configured n, a⟩)) ∧
      (s.cfg.family.isLine = false → checks → CrcRight s.cfg f →
        exec (.rxByte b) s = .next (classResult
          { s.taken with crcr := crcFold 0xFFFF#16 f.span, crcOut := crc16 s.cfg.crcXorout f.span }
          ⟨.configured n, a⟩))) ∧
    (∀ chk, s.cfg.family.isLine = true → s.cfg.lineCheck = some chk → checks → chk.passes s.rxbuf = true →
      tokenize s.cfg f.addr (chk.stripped f.payload) = some ⟨.configured n, a⟩ →
      exec (.rxByte b) s = .next (classResult s.taken ⟨.configured n, a⟩))

/-- R237: N, GET, FORM, FMASK, CAL and `A,?` never write WAKE, and no instruction clears it. -/
def Obligations.WakeIsWrittenOnlyByItsCommands : Prop :=
  (∀ (a : Args) (s t : State),
    (exec (.nAddr a) s = .next t ∨ exec (.get a) s = .next t ∨ exec (.form a) s = .next t ∨
      exec (.fmask a) s = .next t ∨ exec (.cal a) s = .next t ∨ exec (.aQuery a) s = .next t) → t.wake = s.wake) ∧
    ∀ (i : Instr) (s t : State), exec i s = .next t → s.wake = true → t.wake = true

/-! ## The receive step -/

/-- R131, R134, R63: a data byte is discarded, or stored where there is room; nothing else changes. -/
def Obligations.RxByteStoresData : Prop :=
  ∀ (b : Byte) (s : State), s.shutdown = false → s.cfg.family.isTerminator b = false →
    (s.rxdisc = true → exec (.rxByte b) s = .next s) ∧
    (s.rxdisc = false → s.rxbuf.length ≠ s.cfg.rxbufMax →
      exec (.rxByte b) s = .next { s with rxbuf := s.rxbuf ++ [b] })

/-- R132: a data byte on a full buffer drops the partial line and logs one OVERFLOW; the parameter says what follows. -/
def Obligations.RxByteOverflows : Prop :=
  ∀ (b : Byte) (s : State), s.shutdown = false → s.cfg.family.isTerminator b = false → s.rxdisc = false →
    s.rxbuf.length = s.cfg.rxbufMax →
    (s.cfg.overflowResync = .skipToTerminator →
      exec (.rxByte b) s = .next
        { s with rxbuf := [], rxdisc := true, outlog := s.outlog ++ [⟨.overflow, none, none⟩] }) ∧
    (s.cfg.overflowResync = .restart →
      exec (.rxByte b) s = .next { s with rxbuf := [b], outlog := s.outlog ++ [⟨.overflow, none, none⟩] })

/-- R80, R131, R133, R134: CR and LF are the terminators of the line families, ETX that of the block families. The
terminator of a discarded line clears the flag and frames nothing, and an empty line is ignored. -/
def Obligations.TerminatorWithoutFrame : Prop :=
  (∀ (f : Family) (b : Byte),
    (f.isLine = true ↔ f = .lineComma ∨ f = .lineKeyword) ∧
      (f.isTerminator b = true ↔ if f = .lineComma ∨ f = .lineKeyword then b = 0x0D#8 ∨ b = 0x0A#8 else b = 0x03#8)) ∧
  ∀ (b : Byte) (s : State), s.shutdown = false → s.cfg.family.isTerminator b = true →
    (s.rxdisc = true → exec (.rxByte b) s = .next { s with rxbuf := [], rxdisc := false }) ∧
    (s.rxdisc = false → s.cfg.family.isLine = true → s.rxbuf = [] → exec (.rxByte b) s = .next s)

/-- R200, R260, R270: the receive step always completes; one that completes a frame leaves the buffer empty, no frame,
and exactly one more log entry. That a byte after SHUTDOWN is a step too is the model's (entry 2). -/
def Obligations.EveryReceiveStepCompletes : Prop :=
  ∀ (b : Byte) (s : State), ∃ t, exec (.rxByte b) s = .next t ∧
    (CompletesFrame s b → t.rxbuf = [] ∧ t.rxdisc = false ∧ t.frame = none ∧ ∃ e, t.outlog = s.outlog ++ [e])

/-- R261, R147: a MalformedFrame changes nothing but the log, the frame's bytes gone. It is what a frame step ends in where
no frame can be located: in a block family where a control byte, a boundary or the CRC field is missing (R140, R143, R144),
and in `BLOCK_COLON` where the payload has no second field or that field is not decimal (R167); where it is decimal, the
frame is located with that address. -/
def Obligations.MalformedFrameOnlyLogs : Prop :=
  ∀ (b : Byte) (s : State), CompletesFrame s b →
    let r := pendingFrame s b
    let malformed := exec (.rxByte b) s = .next
      { s.taken with outlog := s.outlog ++ [⟨.malformedFrame, none, none⟩], frame := none }
    let cut := fun i e c1 c2 => FirstAt r Ascii.stx 0 i ∧ FirstAt r Ascii.etx (i + 1) e ∧
      LastBetween r Ascii.colon i e c1 ∧ LastBetween r Ascii.colon i c1 c2 ∧ c2 + 1 < c1
    (locateFrame s.cfg r = none → malformed) ∧
    (s.cfg.family = .blockSpace →
      (¬ ∃ i e c, FirstAt r Ascii.stx 0 i ∧ FirstAt r Ascii.etx (i + 1) e ∧
        LastBetween r Ascii.space i e c ∧ c + 1 < e) → malformed) ∧
    (s.cfg.family = .blockColon → (¬ ∃ i e c1 c2, cut i e c1 c2) → malformed) ∧
    (s.cfg.family = .blockColon → ∀ i e c1 c2, cut i e c1 c2 →
      let payload := slice r (i + 1) c2
      let id := ((payload.dropWhile (· != Ascii.colon)).drop 1).takeWhile (· != Ascii.colon)
      (id = [] ∨ (∃ x ∈ id, ¬ (0x30#8 ≤ x ∧ x ≤ 0x39#8)) → malformed) ∧
      (id ≠ [] → (∀ x ∈ id, 0x30#8 ≤ x ∧ x ≤ 0x39#8) →
        ∃ f, locateFrame s.cfg r = some f ∧
          f.addr = some (Nat.ofDigits 10 (id.reverse.map fun x => x.toNat - 48)) ∧ f.payload = payload ∧
          f.crcfield = some (slice r (c2 + 1) c1) ∧ f.span = spanAt s.cfg r i c2))

/-- R264, R267: a located frame with no target is AddressOutOfRange, whatever its checksum and keyword: nothing but the
log changes. That the entry of a frame without an address has no address, where R190 raises with address 0, is deduced from
R260 (entry 14). -/
def Obligations.AddressOutOfRangeComesFirst : Prop :=
  ∀ (b : Byte) (s : State) (f : Frame), CompletesFrame s b → locateFrame s.cfg (pendingFrame s b) = some f →
    targets s f.addr = [] →
    exec (.rxByte b) s = .next
      { s.taken with outlog := s.outlog ++ [⟨.addressOutOfRange, f.addr, none⟩], frame := none }

/-- R262, R145, R146: a block frame for a checking target whose CRC is wrong is a ChecksumMismatch, whatever its keyword:
the error reply as raw bytes where configured, and no other change but the CRC unit's. -/
def Obligations.WrongCrcIsAChecksumMismatch : Prop :=
  ∀ (b : Byte) (s : State) (f : Frame), CompletesFrame s b → s.cfg.family.isLine = false →
    locateFrame s.cfg (pendingFrame s b) = some f →
    (∃ d v, d ∈ targets s f.addr ∧ s.devs[d]? = some v ∧ v.chkEn = true) → ¬ CrcRight s.cfg f →
    ∃ x y, exec (.rxByte b) s = .next
      { s.taken with
        crcr := x, crcOut := y
        txq := s.txq ++ s.cfg.errReplyChecksum.toList
        outlog := s.outlog ++ [⟨.checksumMismatch, f.addr, none⟩]
        frame := none }

/-- R138, R199, R262, R263: where a line check is configured and applies, a line that fails it is a ChecksumMismatch,
with the configured error reply and no other change. A line that passes goes on with the stripped payload: an
UnknownCommand where that has no keyword, else its command, as the decoder names it, or the configured one. That a line
check leaves the accumulators as they were is the model's choice (entry 9); so is that LINE_CHECK applies in
`LINE_KEYWORD` too (entry 19). -/
def Obligations.LineCheckDecidesTheLine : Prop :=
  ∀ (b : Byte) (s : State) (f : Frame) (chk : LineCheck), CompletesFrame s b → s.cfg.family.isLine = true →
    locateFrame s.cfg (pendingFrame s b) = some f → s.cfg.lineCheck = some chk →
    (∃ d v, d ∈ targets s f.addr ∧ s.devs[d]? = some v ∧ v.chkEn = true) →
    let payload := chk.stripped f.payload
    (chk.passes s.rxbuf = true → matchKeyword s.cfg payload = none →
      exec (.rxByte b) s = .next
        { s.taken with
          txq := s.txq ++ s.cfg.errReplyUnknown.toList
          outlog := s.outlog ++ [⟨.unknownCommand, f.addr, none⟩]
          frame := none }) ∧
    (∀ c, chk.passes s.rxbuf = true → tokenize s.cfg f.addr payload = some c →
      (∀ i, instrOf c = .ok i → exec (.rxByte b) s = exec i s.taken) ∧
        ((∃ n, c.kind = .configured n) → exec (.rxByte b) s = execCmd c s.taken)) ∧
    (chk.passes s.rxbuf = false →
      exec (.rxByte b) s = .next
        { s.taken with
          txq := s.txq ++ s.cfg.errReplyChecksum.toList
          outlog := s.outlog ++ [⟨.checksumMismatch, f.addr, none⟩]
          frame := none })

/-- R263, R199: a frame with a target whose keyword is in no entry is an UnknownCommand: the error reply as raw bytes where
configured, and no other change. So it is for a line that no line check applies to, and for a block frame that is not
checked or whose CRC is right (there the CRC unit has run over the span, entry 6). In `BLOCK_COLON` the keyword must be the
whole of the first field (R167). -/
def Obligations.UnknownKeywordIsAnUnknownCommand : Prop :=
  ∀ (b : Byte) (s : State) (f : Frame), CompletesFrame s b →
    locateFrame s.cfg (pendingFrame s b) = some f → targets s f.addr ≠ [] →
    (s.cfg.family ≠ .blockColon → matchKeyword s.cfg f.payload = none) →
    (s.cfg.family = .blockColon → ∀ e, matchKeyword s.cfg (f.payload.takeWhile (· != Ascii.colon)) = some e →
      e.1.length ≠ (f.payload.takeWhile (· != Ascii.colon)).length) →
    let checks := ∃ d v, d ∈ targets s f.addr ∧ s.devs[d]? = some v ∧ v.chkEn = true
    (¬ checks ∨ s.cfg.family.isLine = true ∧ s.cfg.lineCheck = none →
      exec (.rxByte b) s = .next
        { s.taken with
          txq := s.txq ++ s.cfg.errReplyUnknown.toList
          outlog := s.outlog ++ [⟨.unknownCommand, f.addr, none⟩]
          frame := none }) ∧
    (s.cfg.family.isLine = false → checks → CrcRight s.cfg f →
      exec (.rxByte b) s = .next
        { s.taken with
          crcr := crcFold 0xFFFF#16 f.span, crcOut := crc16 s.cfg.crcXorout f.span
          txq := s.txq ++ s.cfg.errReplyUnknown.toList
          outlog := s.outlog ++ [⟨.unknownCommand, f.addr, none⟩]
          frame := none })

/-! ## The step -/

/-- A step runs the decoded port operation on the state from which its transaction has been taken; a transaction that
decodes to none stops by name (entry 12). That a step may be a direct transaction on any datapath port is the model's
choice (entry 2). -/
def Obligations.StepRunsThePortOperation : Prop :=
  ∀ (s : State) (p : Port) (data : List Bytes) (rest : List Move), s.inbox = .port p data :: rest →
    (∀ i, decode s.cfg (.port p data) = .ok i → step s = exec i { s with inbox := rest }) ∧
    (∀ e, decode s.cfg (.port p data) = .error e → step s = .fault .portData)

/-- A step runs the decoded command (R199, R145, R146): where the next move delivers the terminator of a frame whose bytes
decode to a command with targets, and its checksum is right or not checked, the step is that command's meaning on the state
with the byte taken and the buffer cleared. A checked block frame has run the CRC unit over its span; that `crcr` and `crcOut` show
that run is the model's (entry 6), where R21 calls the accumulators scratch. -/
def Obligations.StepRunsTheDecodedCommand : Prop :=
  ∀ (s : State) (b : Byte) (rest : List Move) (i : Instr) (f : Frame), s.inbox = deliver b :: rest →
    CompletesFrame s b → locateFrame s.cfg (pendingFrame s b) = some f →
    decode s.cfg (.wire (pendingFrame s b)) = .ok i → targets s f.addr ≠ [] →
    ((chkApplies s (targets s f.addr) = false ∨ (s.cfg.family.isLine = true ∧ s.cfg.lineCheck = none)) →
      step s = exec i { s.taken with inbox := rest }) ∧
    (s.cfg.family.isLine = false → chkApplies s (targets s f.addr) = true → CrcRight s.cfg f →
      step s = exec i
        { s.taken with
          inbox := rest, crcr := crcFold 0xFFFF#16 f.span, crcOut := crc16 s.cfg.crcXorout f.span })

/-- R130, R135, R274, R275, R301: with no byte, or after SHUTDOWN, the receive path changes nothing; a move of the sender
is its next step; SHUTDOWN_STEP sets both flags; the transport takes the head message.
That a byte delivered after SHUTDOWN is a step that changes nothing is the model's reading (entry 2). -/
def Obligations.EnvironmentMoves : Prop :=
  ∀ (s : State) (rest : List Move),
    (s.inbox = [] → step s = .next s) ∧
    (s.inbox = .noByte :: rest → step s = .next { s with inbox := rest }) ∧
    (∀ dt feed, s.inbox = .sender dt feed :: rest → step s = .next (senderMove dt feed { s with inbox := rest })) ∧
    (s.inbox = .shutdown :: rest → step s = .next { s with inbox := rest, shutdown := true, wake := true }) ∧
    (s.inbox = .transmit :: rest → step s = .next { s with inbox := rest, txq := s.txq.tail }) ∧
    (∀ b, s.shutdown = true → exec (.rxByte b) s = .next s)

/-- R274: SENDER_STEP under the lock, as the step of a sender's move. After SHUTDOWN the sender exits. Otherwise it clears
WAKE and serves the due devices in ascending address order, one result of the feed for each: a device that gets a
measurement takes it, and its output becomes pending; no other record changes. A device is due where it is CONTINUOUS and has
sent nothing yet, or its interval has passed since.
The clock's advance and the feed are data of the move, and the field `senderPhase` says which step of the sender comes next
(entry 7). That a sender with nothing pending waits again, with no SENDER_WRITE and SENDER_STAMP between, is the model's
choice (entry 2). -/
def Obligations.SenderServesDueDevices : Prop :=
  ∀ (s : State) (dt : Nat) (feed : List (Option Bytes)) (rest : List Move), s.inbox = .sender dt feed :: rest →
    s.senderPhase = .waiting → s.pending = [] →
    let isDue := fun v : Dev => v.mode = .continuous ∧
      (v.lastTx = none ∨ ∃ t, v.lastTx = some t ∧ v.interval ≤ s.now + dt - t)
    (s.shutdown = true → step s = .next { s with inbox := rest, now := s.now + dt, senderPhase := .exited }) ∧
    (s.shutdown = false →
      ∃ due : List Nat,
        (∀ d, d ∈ due ↔ ∃ v, s.devs[d]? = some v ∧ isDue v) ∧ due.Nodup ∧
        (due.Pairwise fun d e => ∀ v w, s.devs[d]? = some v → s.devs[e]? = some w → v.address ≤ w.address) ∧
        let served := (due.zip feed).filterMap fun p => p.2.map fun m => (p.1, m)
        step s = .next
          { s with
            inbox := rest
            now := s.now + dt
            wake := false
            devs := s.devs.mapIdx fun d v => ((served.find? fun p => p.1 == d).map fun p => { v with meas := p.2 }).getD v
            pending := served.filterMap fun p => s.devs[p.1]?.map fun v =>
              (p.1, s.cfg.formatMeasurement { v with meas := p.2 })
            senderPhase := if served = [] then .waiting else .collected })

/-- R274, R275, each as the step of a sender's move: SENDER_WRITE appends the pending messages to the queue, SENDER_STAMP
records the time of every device that had one, and a sender that has exited takes no further step. That the clock advances
by the move's time before each of them, SENDER_WRITE included, is the model's (entry 7); so is that the move of an exited
sender is a step that does nothing but take the move (entry 2). -/
def Obligations.SenderWritesThenStamps : Prop :=
  ∀ (s : State) (dt : Nat) (feed : List (Option Bytes)) (rest : List Move), s.inbox = .sender dt feed :: rest →
    (s.senderPhase = .collected →
      step s = .next
        { s with inbox := rest, now := s.now + dt, txq := s.txq ++ s.pending.map (·.2), senderPhase := .written }) ∧
    (s.senderPhase = .written →
      step s = .next
        { s with
          inbox := rest
          now := s.now + dt
          devs := updateAll s.devs (s.pending.map (·.1)) fun v => { v with lastTx := some (s.now + dt) }
          pending := []
          senderPhase := .waiting }) ∧
    (s.senderPhase = .exited → step s = .next { s with inbox := rest })

/-! ## Reset -/

/-- R290: the values of reset that the spec gives, under every configuration; `ATAB` under one whose addresses are
distinct (R292). -/
def Obligations.ResetValues : Prop :=
  ∀ cfg : Config,
    let s := State.resetWith cfg
    s.rxbuf = [] ∧ s.rxdisc = false ∧ s.wake = false ∧ s.shutdown = false ∧ s.txq = [] ∧ s.outlog = [] ∧
      s.refused = false ∧ s.devs.length = cfg.devices.length ∧
      (∀ (d : Nat) (v : Dev), cfg.devices[d]? = some v →
        ∃ m, s.devs[d]? = some { v with mode := cfg.initialMode, chkEn := cfg.chkEnReset, lastTx := none, meas := m }) ∧
      ((cfg.devices.map (·.address)).Nodup →
        ∀ a d, tabGet s.atab a = some d ↔ ∃ v, cfg.devices[d]? = some v ∧ v.address = a)

/-- R294, R47, R292: under a well-formed configuration the reset state is a clean entry, and has the invariant. -/
def Obligations.ResetIsCleanAndHasInvariant : Prop :=
  ∀ cfg : Config, cfg.wf → (State.resetWith cfg).CleanEntry ∧ (State.resetWith cfg).Inv

/-! ## What every step keeps -/

/-- The invariant of the machine is kept by every step of every agent (R23, R24, R46, R47, R134, R274). -/
def Obligations.StepKeepsInvariant : Prop := ∀ s t : State, s.Inv → step s = .next t → t.Inv

/-- R20, R27, R28, R29: no step writes the configuration, makes or destroys a record, or writes an identity field. -/
def Obligations.StepKeepsConfigurationAndIdentity : Prop :=
  ∀ s t : State, step s = .next t →
    t.cfg = s.cfg ∧ t.devs.length = s.devs.length ∧
      ∀ (d : Nat) (v w : Dev), s.devs[d]? = some v → t.devs[d]? = some w → w.serial = v.serial ∧ w.model = v.model

/-- R44, R45: no instruction writes `meas` or `last_tx`: only the sender path does. -/
def Obligations.OnlyTheSenderWritesMeasAndLastTx : Prop :=
  ∀ (i : Instr) (s t : State), exec i s = .next t →
    ∀ (d : Nat) (v w : Dev), s.devs[d]? = some v → t.devs[d]? = some w → w.meas = v.meas ∧ w.lastTx = v.lastTx

/-- R299: a step that changes a mode or an interval leaves WAKE set. -/
def Obligations.ModeOrIntervalChangeLeavesWakeSet : Prop :=
  ∀ (s t : State) (d : Nat) (v w : Dev), step s = .next t → s.devs[d]? = some v → t.devs[d]? = some w →
    w.mode ≠ v.mode ∨ w.interval ≠ v.interval → t.wake = true

/-- R50, R52, R53: the log only grows, at its end, and SHUTDOWN and REFUSED are never cleared. -/
def Obligations.LogGrowsAndMarksStay : Prop :=
  ∀ s t : State, step s = .next t →
    (∃ l, t.outlog = s.outlog ++ l) ∧ (s.shutdown = true → t.shutdown = true) ∧ (s.refused = true → t.refused = true)

/-- R269: a frame whose outcome is an error other than OutOfRange leaves the records, the address table and WAKE exactly
as they were. -/
def Obligations.ErrorOutcomesArePrecise : Prop :=
  ∀ (b : Byte) (s t : State) (e : LogEntry), CompletesFrame s b → exec (.rxByte b) s = .next t →
    t.outlog = s.outlog ++ [e] → e.outcome ≠ .ok → e.outcome ≠ .outOfRange →
    t.devs = s.devs ∧ t.atab = s.atab ∧ t.wake = s.wake

/-- R52: the log has no effect on any other state. -/
def Obligations.LogHasNoEffect : Prop :=
  ∀ (l : List LogEntry) (s : State), step (s.withLogBefore l) = mapNext (·.withLogBefore l) (step s)

/-- R45, R273: the block never reads `last_tx`: other timestamps change nothing an instruction does. -/
def Obligations.BlockNeverReadsLastTx : Prop :=
  ∀ (i : Instr) (s : State) (f : Nat → Option Nat), exec i (s.withLastTx f) = mapNext (·.withLastTx f) (exec i s)
end

