-- ==== Sys2Proof/Laws/State.lean ====
section
/-! SUPPORT. One lemma for each field of the state under each named operation, so that no proof unfolds a record update. -/

namespace Sys2Proof.Machine

variable (s : State)

@[simp] theorem State.wakeUp_cfg : (s.wakeUp).cfg = s.cfg := rfl
@[simp] theorem State.wakeUp_rxbuf : (s.wakeUp).rxbuf = s.rxbuf := rfl
@[simp] theorem State.wakeUp_rxdisc : (s.wakeUp).rxdisc = s.rxdisc := rfl
@[simp] theorem State.wakeUp_crcr : (s.wakeUp).crcr = s.crcr := rfl
@[simp] theorem State.wakeUp_crcOut : (s.wakeUp).crcOut = s.crcOut := rfl
@[simp] theorem State.wakeUp_xacc : (s.wakeUp).xacc = s.xacc := rfl
@[simp] theorem State.wakeUp_frame : (s.wakeUp).frame = s.frame := rfl
@[simp] theorem State.wakeUp_devs : (s.wakeUp).devs = s.devs := rfl
@[simp] theorem State.wakeUp_atab : (s.wakeUp).atab = s.atab := rfl
@[simp] theorem State.wakeUp_wake : (s.wakeUp).wake = true := rfl
@[simp] theorem State.wakeUp_shutdown : (s.wakeUp).shutdown = s.shutdown := rfl
@[simp] theorem State.wakeUp_txq : (s.wakeUp).txq = s.txq := rfl
@[simp] theorem State.wakeUp_outlog : (s.wakeUp).outlog = s.outlog := rfl
@[simp] theorem State.wakeUp_refused : (s.wakeUp).refused = s.refused := rfl
@[simp] theorem State.wakeUp_pending : (s.wakeUp).pending = s.pending := rfl
@[simp] theorem State.wakeUp_senderPhase : (s.wakeUp).senderPhase = s.senderPhase := rfl
@[simp] theorem State.wakeUp_now : (s.wakeUp).now = s.now := rfl
@[simp] theorem State.wakeUp_inbox : (s.wakeUp).inbox = s.inbox := rfl

@[simp] theorem State.emitAll_cfg (ms : List Bytes) : (s.emitAll ms).cfg = s.cfg := rfl
@[simp] theorem State.emitAll_rxbuf (ms : List Bytes) : (s.emitAll ms).rxbuf = s.rxbuf := rfl
@[simp] theorem State.emitAll_rxdisc (ms : List Bytes) : (s.emitAll ms).rxdisc = s.rxdisc := rfl
@[simp] theorem State.emitAll_crcr (ms : List Bytes) : (s.emitAll ms).crcr = s.crcr := rfl
@[simp] theorem State.emitAll_crcOut (ms : List Bytes) : (s.emitAll ms).crcOut = s.crcOut := rfl
@[simp] theorem State.emitAll_xacc (ms : List Bytes) : (s.emitAll ms).xacc = s.xacc := rfl
@[simp] theorem State.emitAll_frame (ms : List Bytes) : (s.emitAll ms).frame = s.frame := rfl
@[simp] theorem State.emitAll_devs (ms : List Bytes) : (s.emitAll ms).devs = s.devs := rfl
@[simp] theorem State.emitAll_atab (ms : List Bytes) : (s.emitAll ms).atab = s.atab := rfl
@[simp] theorem State.emitAll_wake (ms : List Bytes) : (s.emitAll ms).wake = s.wake := rfl
@[simp] theorem State.emitAll_shutdown (ms : List Bytes) : (s.emitAll ms).shutdown = s.shutdown := rfl
@[simp] theorem State.emitAll_txq (ms : List Bytes) : (s.emitAll ms).txq = s.txq ++ ms := rfl
@[simp] theorem State.emitAll_outlog (ms : List Bytes) : (s.emitAll ms).outlog = s.outlog := rfl
@[simp] theorem State.emitAll_refused (ms : List Bytes) : (s.emitAll ms).refused = s.refused := rfl
@[simp] theorem State.emitAll_pending (ms : List Bytes) : (s.emitAll ms).pending = s.pending := rfl
@[simp] theorem State.emitAll_senderPhase (ms : List Bytes) : (s.emitAll ms).senderPhase = s.senderPhase := rfl
@[simp] theorem State.emitAll_now (ms : List Bytes) : (s.emitAll ms).now = s.now := rfl
@[simp] theorem State.emitAll_inbox (ms : List Bytes) : (s.emitAll ms).inbox = s.inbox := rfl

@[simp] theorem State.log_cfg (o : OutcomeCode) (addr : Option Nat) (kind : Option Kind) : (s.log o addr kind).cfg = s.cfg := rfl
@[simp] theorem State.log_rxbuf (o : OutcomeCode) (addr : Option Nat) (kind : Option Kind) : (s.log o addr kind).rxbuf = s.rxbuf := rfl
@[simp] theorem State.log_rxdisc (o : OutcomeCode) (addr : Option Nat) (kind : Option Kind) : (s.log o addr kind).rxdisc = s.rxdisc := rfl
@[simp] theorem State.log_crcr (o : OutcomeCode) (addr : Option Nat) (kind : Option Kind) : (s.log o addr kind).crcr = s.crcr := rfl
@[simp] theorem State.log_crcOut (o : OutcomeCode) (addr : Option Nat) (kind : Option Kind) : (s.log o addr kind).crcOut = s.crcOut := rfl
@[simp] theorem State.log_xacc (o : OutcomeCode) (addr : Option Nat) (kind : Option Kind) : (s.log o addr kind).xacc = s.xacc := rfl
@[simp] theorem State.log_frame (o : OutcomeCode) (addr : Option Nat) (kind : Option Kind) : (s.log o addr kind).frame = s.frame := rfl
@[simp] theorem State.log_devs (o : OutcomeCode) (addr : Option Nat) (kind : Option Kind) : (s.log o addr kind).devs = s.devs := rfl
@[simp] theorem State.log_atab (o : OutcomeCode) (addr : Option Nat) (kind : Option Kind) : (s.log o addr kind).atab = s.atab := rfl
@[simp] theorem State.log_wake (o : OutcomeCode) (addr : Option Nat) (kind : Option Kind) : (s.log o addr kind).wake = s.wake := rfl
@[simp] theorem State.log_shutdown (o : OutcomeCode) (addr : Option Nat) (kind : Option Kind) : (s.log o addr kind).shutdown = s.shutdown := rfl
@[simp] theorem State.log_txq (o : OutcomeCode) (addr : Option Nat) (kind : Option Kind) : (s.log o addr kind).txq = s.txq := rfl
@[simp] theorem State.log_outlog (o : OutcomeCode) (addr : Option Nat) (kind : Option Kind) : (s.log o addr kind).outlog = s.outlog ++ [⟨o, addr, kind⟩] := rfl
@[simp] theorem State.log_refused (o : OutcomeCode) (addr : Option Nat) (kind : Option Kind) : (s.log o addr kind).refused = s.refused := rfl
@[simp] theorem State.log_pending (o : OutcomeCode) (addr : Option Nat) (kind : Option Kind) : (s.log o addr kind).pending = s.pending := rfl
@[simp] theorem State.log_senderPhase (o : OutcomeCode) (addr : Option Nat) (kind : Option Kind) : (s.log o addr kind).senderPhase = s.senderPhase := rfl
@[simp] theorem State.log_now (o : OutcomeCode) (addr : Option Nat) (kind : Option Kind) : (s.log o addr kind).now = s.now := rfl
@[simp] theorem State.log_inbox (o : OutcomeCode) (addr : Option Nat) (kind : Option Kind) : (s.log o addr kind).inbox = s.inbox := rfl

@[simp] theorem State.dropFrame_cfg : (s.dropFrame).cfg = s.cfg := rfl
@[simp] theorem State.dropFrame_rxbuf : (s.dropFrame).rxbuf = s.rxbuf := rfl
@[simp] theorem State.dropFrame_rxdisc : (s.dropFrame).rxdisc = s.rxdisc := rfl
@[simp] theorem State.dropFrame_crcr : (s.dropFrame).crcr = s.crcr := rfl
@[simp] theorem State.dropFrame_crcOut : (s.dropFrame).crcOut = s.crcOut := rfl
@[simp] theorem State.dropFrame_xacc : (s.dropFrame).xacc = s.xacc := rfl
@[simp] theorem State.dropFrame_frame : (s.dropFrame).frame = none := rfl
@[simp] theorem State.dropFrame_devs : (s.dropFrame).devs = s.devs := rfl
@[simp] theorem State.dropFrame_atab : (s.dropFrame).atab = s.atab := rfl
@[simp] theorem State.dropFrame_wake : (s.dropFrame).wake = s.wake := rfl
@[simp] theorem State.dropFrame_shutdown : (s.dropFrame).shutdown = s.shutdown := rfl
@[simp] theorem State.dropFrame_txq : (s.dropFrame).txq = s.txq := rfl
@[simp] theorem State.dropFrame_outlog : (s.dropFrame).outlog = s.outlog := rfl
@[simp] theorem State.dropFrame_refused : (s.dropFrame).refused = s.refused := rfl
@[simp] theorem State.dropFrame_pending : (s.dropFrame).pending = s.pending := rfl
@[simp] theorem State.dropFrame_senderPhase : (s.dropFrame).senderPhase = s.senderPhase := rfl
@[simp] theorem State.dropFrame_now : (s.dropFrame).now = s.now := rfl
@[simp] theorem State.dropFrame_inbox : (s.dropFrame).inbox = s.inbox := rfl

@[simp] theorem State.modifyDev_cfg (d : Nat) (f : Dev → Dev) : (s.modifyDev d f).cfg = s.cfg := rfl
@[simp] theorem State.modifyDev_rxbuf (d : Nat) (f : Dev → Dev) : (s.modifyDev d f).rxbuf = s.rxbuf := rfl
@[simp] theorem State.modifyDev_rxdisc (d : Nat) (f : Dev → Dev) : (s.modifyDev d f).rxdisc = s.rxdisc := rfl
@[simp] theorem State.modifyDev_crcr (d : Nat) (f : Dev → Dev) : (s.modifyDev d f).crcr = s.crcr := rfl
@[simp] theorem State.modifyDev_crcOut (d : Nat) (f : Dev → Dev) : (s.modifyDev d f).crcOut = s.crcOut := rfl
@[simp] theorem State.modifyDev_xacc (d : Nat) (f : Dev → Dev) : (s.modifyDev d f).xacc = s.xacc := rfl
@[simp] theorem State.modifyDev_frame (d : Nat) (f : Dev → Dev) : (s.modifyDev d f).frame = s.frame := rfl
@[simp] theorem State.modifyDev_devs (d : Nat) (f : Dev → Dev) : (s.modifyDev d f).devs = s.devs.modify d f := rfl
@[simp] theorem State.modifyDev_atab (d : Nat) (f : Dev → Dev) : (s.modifyDev d f).atab = s.atab := rfl
@[simp] theorem State.modifyDev_wake (d : Nat) (f : Dev → Dev) : (s.modifyDev d f).wake = s.wake := rfl
@[simp] theorem State.modifyDev_shutdown (d : Nat) (f : Dev → Dev) : (s.modifyDev d f).shutdown = s.shutdown := rfl
@[simp] theorem State.modifyDev_txq (d : Nat) (f : Dev → Dev) : (s.modifyDev d f).txq = s.txq := rfl
@[simp] theorem State.modifyDev_outlog (d : Nat) (f : Dev → Dev) : (s.modifyDev d f).outlog = s.outlog := rfl
@[simp] theorem State.modifyDev_refused (d : Nat) (f : Dev → Dev) : (s.modifyDev d f).refused = s.refused := rfl
@[simp] theorem State.modifyDev_pending (d : Nat) (f : Dev → Dev) : (s.modifyDev d f).pending = s.pending := rfl
@[simp] theorem State.modifyDev_senderPhase (d : Nat) (f : Dev → Dev) : (s.modifyDev d f).senderPhase = s.senderPhase := rfl
@[simp] theorem State.modifyDev_now (d : Nat) (f : Dev → Dev) : (s.modifyDev d f).now = s.now := rfl
@[simp] theorem State.modifyDev_inbox (d : Nat) (f : Dev → Dev) : (s.modifyDev d f).inbox = s.inbox := rfl

@[simp] theorem State.moveDev_cfg (d old new : Nat) : (s.moveDev d old new).cfg = s.cfg := rfl
@[simp] theorem State.moveDev_rxbuf (d old new : Nat) : (s.moveDev d old new).rxbuf = s.rxbuf := rfl
@[simp] theorem State.moveDev_rxdisc (d old new : Nat) : (s.moveDev d old new).rxdisc = s.rxdisc := rfl
@[simp] theorem State.moveDev_crcr (d old new : Nat) : (s.moveDev d old new).crcr = s.crcr := rfl
@[simp] theorem State.moveDev_crcOut (d old new : Nat) : (s.moveDev d old new).crcOut = s.crcOut := rfl
@[simp] theorem State.moveDev_xacc (d old new : Nat) : (s.moveDev d old new).xacc = s.xacc := rfl
@[simp] theorem State.moveDev_frame (d old new : Nat) : (s.moveDev d old new).frame = s.frame := rfl
@[simp] theorem State.moveDev_devs (d old new : Nat) : (s.moveDev d old new).devs = s.devs.modify d fun v => { v with address := new } := rfl
@[simp] theorem State.moveDev_atab (d old new : Nat) : (s.moveDev d old new).atab = tabSet (tabDel s.atab old) new d := rfl
@[simp] theorem State.moveDev_wake (d old new : Nat) : (s.moveDev d old new).wake = s.wake := rfl
@[simp] theorem State.moveDev_shutdown (d old new : Nat) : (s.moveDev d old new).shutdown = s.shutdown := rfl
@[simp] theorem State.moveDev_txq (d old new : Nat) : (s.moveDev d old new).txq = s.txq := rfl
@[simp] theorem State.moveDev_outlog (d old new : Nat) : (s.moveDev d old new).outlog = s.outlog := rfl
@[simp] theorem State.moveDev_refused (d old new : Nat) : (s.moveDev d old new).refused = s.refused := rfl
@[simp] theorem State.moveDev_pending (d old new : Nat) : (s.moveDev d old new).pending = s.pending := rfl
@[simp] theorem State.moveDev_senderPhase (d old new : Nat) : (s.moveDev d old new).senderPhase = s.senderPhase := rfl
@[simp] theorem State.moveDev_now (d old new : Nat) : (s.moveDev d old new).now = s.now := rfl
@[simp] theorem State.moveDev_inbox (d old new : Nat) : (s.moveDev d old new).inbox = s.inbox := rfl

@[simp] theorem State.runCrc_cfg (span : Bytes) : (s.runCrc span).cfg = s.cfg := rfl
@[simp] theorem State.runCrc_rxbuf (span : Bytes) : (s.runCrc span).rxbuf = s.rxbuf := rfl
@[simp] theorem State.runCrc_rxdisc (span : Bytes) : (s.runCrc span).rxdisc = s.rxdisc := rfl
@[simp] theorem State.runCrc_crcr (span : Bytes) : (s.runCrc span).crcr = crcFold crcInit span := rfl
@[simp] theorem State.runCrc_crcOut (span : Bytes) : (s.runCrc span).crcOut = crc16 s.cfg.crcXorout span := rfl
@[simp] theorem State.runCrc_xacc (span : Bytes) : (s.runCrc span).xacc = s.xacc := rfl
@[simp] theorem State.runCrc_frame (span : Bytes) : (s.runCrc span).frame = s.frame := rfl
@[simp] theorem State.runCrc_devs (span : Bytes) : (s.runCrc span).devs = s.devs := rfl
@[simp] theorem State.runCrc_atab (span : Bytes) : (s.runCrc span).atab = s.atab := rfl
@[simp] theorem State.runCrc_wake (span : Bytes) : (s.runCrc span).wake = s.wake := rfl
@[simp] theorem State.runCrc_shutdown (span : Bytes) : (s.runCrc span).shutdown = s.shutdown := rfl
@[simp] theorem State.runCrc_txq (span : Bytes) : (s.runCrc span).txq = s.txq := rfl
@[simp] theorem State.runCrc_outlog (span : Bytes) : (s.runCrc span).outlog = s.outlog := rfl
@[simp] theorem State.runCrc_refused (span : Bytes) : (s.runCrc span).refused = s.refused := rfl
@[simp] theorem State.runCrc_pending (span : Bytes) : (s.runCrc span).pending = s.pending := rfl
@[simp] theorem State.runCrc_senderPhase (span : Bytes) : (s.runCrc span).senderPhase = s.senderPhase := rfl
@[simp] theorem State.runCrc_now (span : Bytes) : (s.runCrc span).now = s.now := rfl
@[simp] theorem State.runCrc_inbox (span : Bytes) : (s.runCrc span).inbox = s.inbox := rfl

@[simp] theorem State.setRx_cfg (buf : Bytes) (disc : Bool) : (s.setRx buf disc).cfg = s.cfg := rfl
@[simp] theorem State.setRx_rxbuf (buf : Bytes) (disc : Bool) : (s.setRx buf disc).rxbuf = buf := rfl
@[simp] theorem State.setRx_rxdisc (buf : Bytes) (disc : Bool) : (s.setRx buf disc).rxdisc = disc := rfl
@[simp] theorem State.setRx_crcr (buf : Bytes) (disc : Bool) : (s.setRx buf disc).crcr = s.crcr := rfl
@[simp] theorem State.setRx_crcOut (buf : Bytes) (disc : Bool) : (s.setRx buf disc).crcOut = s.crcOut := rfl
@[simp] theorem State.setRx_xacc (buf : Bytes) (disc : Bool) : (s.setRx buf disc).xacc = s.xacc := rfl
@[simp] theorem State.setRx_frame (buf : Bytes) (disc : Bool) : (s.setRx buf disc).frame = s.frame := rfl
@[simp] theorem State.setRx_devs (buf : Bytes) (disc : Bool) : (s.setRx buf disc).devs = s.devs := rfl
@[simp] theorem State.setRx_atab (buf : Bytes) (disc : Bool) : (s.setRx buf disc).atab = s.atab := rfl
@[simp] theorem State.setRx_wake (buf : Bytes) (disc : Bool) : (s.setRx buf disc).wake = s.wake := rfl
@[simp] theorem State.setRx_shutdown (buf : Bytes) (disc : Bool) : (s.setRx buf disc).shutdown = s.shutdown := rfl
@[simp] theorem State.setRx_txq (buf : Bytes) (disc : Bool) : (s.setRx buf disc).txq = s.txq := rfl
@[simp] theorem State.setRx_outlog (buf : Bytes) (disc : Bool) : (s.setRx buf disc).outlog = s.outlog := rfl
@[simp] theorem State.setRx_refused (buf : Bytes) (disc : Bool) : (s.setRx buf disc).refused = s.refused := rfl
@[simp] theorem State.setRx_pending (buf : Bytes) (disc : Bool) : (s.setRx buf disc).pending = s.pending := rfl
@[simp] theorem State.setRx_senderPhase (buf : Bytes) (disc : Bool) : (s.setRx buf disc).senderPhase = s.senderPhase := rfl
@[simp] theorem State.setRx_now (buf : Bytes) (disc : Bool) : (s.setRx buf disc).now = s.now := rfl
@[simp] theorem State.setRx_inbox (buf : Bytes) (disc : Bool) : (s.setRx buf disc).inbox = s.inbox := rfl

@[simp] theorem State.raise_cfg (o : OutcomeCode) (addr : Option Nat) : (s.raise o addr).cfg = s.cfg := rfl
@[simp] theorem State.raise_rxbuf (o : OutcomeCode) (addr : Option Nat) : (s.raise o addr).rxbuf = s.rxbuf := rfl
@[simp] theorem State.raise_rxdisc (o : OutcomeCode) (addr : Option Nat) : (s.raise o addr).rxdisc = s.rxdisc := rfl
@[simp] theorem State.raise_crcr (o : OutcomeCode) (addr : Option Nat) : (s.raise o addr).crcr = s.crcr := rfl
@[simp] theorem State.raise_crcOut (o : OutcomeCode) (addr : Option Nat) : (s.raise o addr).crcOut = s.crcOut := rfl
@[simp] theorem State.raise_xacc (o : OutcomeCode) (addr : Option Nat) : (s.raise o addr).xacc = s.xacc := rfl
@[simp] theorem State.raise_frame (o : OutcomeCode) (addr : Option Nat) : (s.raise o addr).frame = none := rfl
@[simp] theorem State.raise_devs (o : OutcomeCode) (addr : Option Nat) : (s.raise o addr).devs = s.devs := rfl
@[simp] theorem State.raise_atab (o : OutcomeCode) (addr : Option Nat) : (s.raise o addr).atab = s.atab := rfl
@[simp] theorem State.raise_wake (o : OutcomeCode) (addr : Option Nat) : (s.raise o addr).wake = s.wake := rfl
@[simp] theorem State.raise_shutdown (o : OutcomeCode) (addr : Option Nat) : (s.raise o addr).shutdown = s.shutdown := rfl
@[simp] theorem State.raise_txq (o : OutcomeCode) (addr : Option Nat) : (s.raise o addr).txq = s.txq ++ errReply s.cfg o := rfl
@[simp] theorem State.raise_outlog (o : OutcomeCode) (addr : Option Nat) : (s.raise o addr).outlog = s.outlog ++ [⟨o, addr, none⟩] := rfl
@[simp] theorem State.raise_refused (o : OutcomeCode) (addr : Option Nat) : (s.raise o addr).refused = s.refused := rfl
@[simp] theorem State.raise_pending (o : OutcomeCode) (addr : Option Nat) : (s.raise o addr).pending = s.pending := rfl
@[simp] theorem State.raise_senderPhase (o : OutcomeCode) (addr : Option Nat) : (s.raise o addr).senderPhase = s.senderPhase := rfl
@[simp] theorem State.raise_now (o : OutcomeCode) (addr : Option Nat) : (s.raise o addr).now = s.now := rfl
@[simp] theorem State.raise_inbox (o : OutcomeCode) (addr : Option Nat) : (s.raise o addr).inbox = s.inbox := rfl

@[simp] theorem State.taken_cfg : (s.taken).cfg = s.cfg := rfl
@[simp] theorem State.taken_rxbuf : (s.taken).rxbuf = [] := rfl
@[simp] theorem State.taken_rxdisc : (s.taken).rxdisc = false := rfl
@[simp] theorem State.taken_crcr : (s.taken).crcr = s.crcr := rfl
@[simp] theorem State.taken_crcOut : (s.taken).crcOut = s.crcOut := rfl
@[simp] theorem State.taken_xacc : (s.taken).xacc = s.xacc := rfl
@[simp] theorem State.taken_frame : (s.taken).frame = s.frame := rfl
@[simp] theorem State.taken_devs : (s.taken).devs = s.devs := rfl
@[simp] theorem State.taken_atab : (s.taken).atab = s.atab := rfl
@[simp] theorem State.taken_wake : (s.taken).wake = s.wake := rfl
@[simp] theorem State.taken_shutdown : (s.taken).shutdown = s.shutdown := rfl
@[simp] theorem State.taken_txq : (s.taken).txq = s.txq := rfl
@[simp] theorem State.taken_outlog : (s.taken).outlog = s.outlog := rfl
@[simp] theorem State.taken_refused : (s.taken).refused = s.refused := rfl
@[simp] theorem State.taken_pending : (s.taken).pending = s.pending := rfl
@[simp] theorem State.taken_senderPhase : (s.taken).senderPhase = s.senderPhase := rfl
@[simp] theorem State.taken_now : (s.taken).now = s.now := rfl
@[simp] theorem State.taken_inbox : (s.taken).inbox = s.inbox := rfl

/-! Framing a reply and verifying a frame run the CRC unit, or nothing. -/

@[simp] theorem State.runReplyCrc_cfg (p : Bytes) : (s.runReplyCrc p).cfg = s.cfg := by
  unfold State.runReplyCrc; split <;> rfl
@[simp] theorem State.runReplyCrc_rxbuf (p : Bytes) : (s.runReplyCrc p).rxbuf = s.rxbuf := by
  unfold State.runReplyCrc; split <;> rfl
@[simp] theorem State.runReplyCrc_rxdisc (p : Bytes) : (s.runReplyCrc p).rxdisc = s.rxdisc := by
  unfold State.runReplyCrc; split <;> rfl
@[simp] theorem State.runReplyCrc_xacc (p : Bytes) : (s.runReplyCrc p).xacc = s.xacc := by
  unfold State.runReplyCrc; split <;> rfl
@[simp] theorem State.runReplyCrc_frame (p : Bytes) : (s.runReplyCrc p).frame = s.frame := by
  unfold State.runReplyCrc; split <;> rfl
@[simp] theorem State.runReplyCrc_devs (p : Bytes) : (s.runReplyCrc p).devs = s.devs := by
  unfold State.runReplyCrc; split <;> rfl
@[simp] theorem State.runReplyCrc_atab (p : Bytes) : (s.runReplyCrc p).atab = s.atab := by
  unfold State.runReplyCrc; split <;> rfl
@[simp] theorem State.runReplyCrc_wake (p : Bytes) : (s.runReplyCrc p).wake = s.wake := by
  unfold State.runReplyCrc; split <;> rfl
@[simp] theorem State.runReplyCrc_shutdown (p : Bytes) : (s.runReplyCrc p).shutdown = s.shutdown := by
  unfold State.runReplyCrc; split <;> rfl
@[simp] theorem State.runReplyCrc_txq (p : Bytes) : (s.runReplyCrc p).txq = s.txq := by
  unfold State.runReplyCrc; split <;> rfl
@[simp] theorem State.runReplyCrc_outlog (p : Bytes) : (s.runReplyCrc p).outlog = s.outlog := by
  unfold State.runReplyCrc; split <;> rfl
@[simp] theorem State.runReplyCrc_refused (p : Bytes) : (s.runReplyCrc p).refused = s.refused := by
  unfold State.runReplyCrc; split <;> rfl
@[simp] theorem State.runReplyCrc_pending (p : Bytes) : (s.runReplyCrc p).pending = s.pending := by
  unfold State.runReplyCrc; split <;> rfl
@[simp] theorem State.runReplyCrc_senderPhase (p : Bytes) : (s.runReplyCrc p).senderPhase = s.senderPhase := by
  unfold State.runReplyCrc; split <;> rfl
@[simp] theorem State.runReplyCrc_now (p : Bytes) : (s.runReplyCrc p).now = s.now := by
  unfold State.runReplyCrc; split <;> rfl
@[simp] theorem State.runReplyCrc_inbox (p : Bytes) : (s.runReplyCrc p).inbox = s.inbox := by
  unfold State.runReplyCrc; split <;> rfl

@[simp] theorem State.runVerifyCrc_cfg (h span : Bytes) : (s.runVerifyCrc h span).cfg = s.cfg := by
  unfold State.runVerifyCrc; split <;> rfl
@[simp] theorem State.runVerifyCrc_rxbuf (h span : Bytes) : (s.runVerifyCrc h span).rxbuf = s.rxbuf := by
  unfold State.runVerifyCrc; split <;> rfl
@[simp] theorem State.runVerifyCrc_rxdisc (h span : Bytes) : (s.runVerifyCrc h span).rxdisc = s.rxdisc := by
  unfold State.runVerifyCrc; split <;> rfl
@[simp] theorem State.runVerifyCrc_xacc (h span : Bytes) : (s.runVerifyCrc h span).xacc = s.xacc := by
  unfold State.runVerifyCrc; split <;> rfl
@[simp] theorem State.runVerifyCrc_frame (h span : Bytes) : (s.runVerifyCrc h span).frame = s.frame := by
  unfold State.runVerifyCrc; split <;> rfl
@[simp] theorem State.runVerifyCrc_devs (h span : Bytes) : (s.runVerifyCrc h span).devs = s.devs := by
  unfold State.runVerifyCrc; split <;> rfl
@[simp] theorem State.runVerifyCrc_atab (h span : Bytes) : (s.runVerifyCrc h span).atab = s.atab := by
  unfold State.runVerifyCrc; split <;> rfl
@[simp] theorem State.runVerifyCrc_wake (h span : Bytes) : (s.runVerifyCrc h span).wake = s.wake := by
  unfold State.runVerifyCrc; split <;> rfl
@[simp] theorem State.runVerifyCrc_shutdown (h span : Bytes) : (s.runVerifyCrc h span).shutdown = s.shutdown := by
  unfold State.runVerifyCrc; split <;> rfl
@[simp] theorem State.runVerifyCrc_txq (h span : Bytes) : (s.runVerifyCrc h span).txq = s.txq := by
  unfold State.runVerifyCrc; split <;> rfl
@[simp] theorem State.runVerifyCrc_outlog (h span : Bytes) : (s.runVerifyCrc h span).outlog = s.outlog := by
  unfold State.runVerifyCrc; split <;> rfl
@[simp] theorem State.runVerifyCrc_refused (h span : Bytes) : (s.runVerifyCrc h span).refused = s.refused := by
  unfold State.runVerifyCrc; split <;> rfl
@[simp] theorem State.runVerifyCrc_pending (h span : Bytes) : (s.runVerifyCrc h span).pending = s.pending := by
  unfold State.runVerifyCrc; split <;> rfl
@[simp] theorem State.runVerifyCrc_senderPhase (h span : Bytes) : (s.runVerifyCrc h span).senderPhase = s.senderPhase := by
  unfold State.runVerifyCrc; split <;> rfl
@[simp] theorem State.runVerifyCrc_now (h span : Bytes) : (s.runVerifyCrc h span).now = s.now := by
  unfold State.runVerifyCrc; split <;> rfl
@[simp] theorem State.runVerifyCrc_inbox (h span : Bytes) : (s.runVerifyCrc h span).inbox = s.inbox := by
  unfold State.runVerifyCrc; split <;> rfl

@[simp] theorem State.runReplyCrcs_cfg (ps : List Bytes) : (s.runReplyCrcs ps).cfg = s.cfg := by
  unfold State.runReplyCrcs; induction ps generalizing s with
  | nil => rfl
  | cons p ps ih => rw [List.foldl_cons, ih, State.runReplyCrc_cfg]
@[simp] theorem State.runReplyCrcs_rxbuf (ps : List Bytes) : (s.runReplyCrcs ps).rxbuf = s.rxbuf := by
  unfold State.runReplyCrcs; induction ps generalizing s with
  | nil => rfl
  | cons p ps ih => rw [List.foldl_cons, ih, State.runReplyCrc_rxbuf]
@[simp] theorem State.runReplyCrcs_rxdisc (ps : List Bytes) : (s.runReplyCrcs ps).rxdisc = s.rxdisc := by
  unfold State.runReplyCrcs; induction ps generalizing s with
  | nil => rfl
  | cons p ps ih => rw [List.foldl_cons, ih, State.runReplyCrc_rxdisc]
@[simp] theorem State.runReplyCrcs_xacc (ps : List Bytes) : (s.runReplyCrcs ps).xacc = s.xacc := by
  unfold State.runReplyCrcs; induction ps generalizing s with
  | nil => rfl
  | cons p ps ih => rw [List.foldl_cons, ih, State.runReplyCrc_xacc]
@[simp] theorem State.runReplyCrcs_frame (ps : List Bytes) : (s.runReplyCrcs ps).frame = s.frame := by
  unfold State.runReplyCrcs; induction ps generalizing s with
  | nil => rfl
  | cons p ps ih => rw [List.foldl_cons, ih, State.runReplyCrc_frame]
@[simp] theorem State.runReplyCrcs_devs (ps : List Bytes) : (s.runReplyCrcs ps).devs = s.devs := by
  unfold State.runReplyCrcs; induction ps generalizing s with
  | nil => rfl
  | cons p ps ih => rw [List.foldl_cons, ih, State.runReplyCrc_devs]
@[simp] theorem State.runReplyCrcs_atab (ps : List Bytes) : (s.runReplyCrcs ps).atab = s.atab := by
  unfold State.runReplyCrcs; induction ps generalizing s with
  | nil => rfl
  | cons p ps ih => rw [List.foldl_cons, ih, State.runReplyCrc_atab]
@[simp] theorem State.runReplyCrcs_wake (ps : List Bytes) : (s.runReplyCrcs ps).wake = s.wake := by
  unfold State.runReplyCrcs; induction ps generalizing s with
  | nil => rfl
  | cons p ps ih => rw [List.foldl_cons, ih, State.runReplyCrc_wake]
@[simp] theorem State.runReplyCrcs_shutdown (ps : List Bytes) : (s.runReplyCrcs ps).shutdown = s.shutdown := by
  unfold State.runReplyCrcs; induction ps generalizing s with
  | nil => rfl
  | cons p ps ih => rw [List.foldl_cons, ih, State.runReplyCrc_shutdown]
@[simp] theorem State.runReplyCrcs_txq (ps : List Bytes) : (s.runReplyCrcs ps).txq = s.txq := by
  unfold State.runReplyCrcs; induction ps generalizing s with
  | nil => rfl
  | cons p ps ih => rw [List.foldl_cons, ih, State.runReplyCrc_txq]
@[simp] theorem State.runReplyCrcs_outlog (ps : List Bytes) : (s.runReplyCrcs ps).outlog = s.outlog := by
  unfold State.runReplyCrcs; induction ps generalizing s with
  | nil => rfl
  | cons p ps ih => rw [List.foldl_cons, ih, State.runReplyCrc_outlog]
@[simp] theorem State.runReplyCrcs_refused (ps : List Bytes) : (s.runReplyCrcs ps).refused = s.refused := by
  unfold State.runReplyCrcs; induction ps generalizing s with
  | nil => rfl
  | cons p ps ih => rw [List.foldl_cons, ih, State.runReplyCrc_refused]
@[simp] theorem State.runReplyCrcs_pending (ps : List Bytes) : (s.runReplyCrcs ps).pending = s.pending := by
  unfold State.runReplyCrcs; induction ps generalizing s with
  | nil => rfl
  | cons p ps ih => rw [List.foldl_cons, ih, State.runReplyCrc_pending]
@[simp] theorem State.runReplyCrcs_senderPhase (ps : List Bytes) : (s.runReplyCrcs ps).senderPhase = s.senderPhase := by
  unfold State.runReplyCrcs; induction ps generalizing s with
  | nil => rfl
  | cons p ps ih => rw [List.foldl_cons, ih, State.runReplyCrc_senderPhase]
@[simp] theorem State.runReplyCrcs_now (ps : List Bytes) : (s.runReplyCrcs ps).now = s.now := by
  unfold State.runReplyCrcs; induction ps generalizing s with
  | nil => rfl
  | cons p ps ih => rw [List.foldl_cons, ih, State.runReplyCrc_now]
@[simp] theorem State.runReplyCrcs_inbox (ps : List Bytes) : (s.runReplyCrcs ps).inbox = s.inbox := by
  unfold State.runReplyCrcs; induction ps generalizing s with
  | nil => rfl
  | cons p ps ih => rw [List.foldl_cons, ih, State.runReplyCrc_inbox]

@[simp] theorem State.runReplyCrcs_nil : s.runReplyCrcs [] = s := rfl

theorem State.runReplyCrcs_cons (p : Bytes) (ps : List Bytes) :
    s.runReplyCrcs (p :: ps) = (s.runReplyCrc p).runReplyCrcs ps := rfl

theorem State.runReplyCrcs_append (ps qs : List Bytes) :
    s.runReplyCrcs (ps ++ qs) = (s.runReplyCrcs ps).runReplyCrcs qs := by
  simp [State.runReplyCrcs]

/-- Framing replies touches the CRC unit only. -/
theorem State.runReplyCrcs_only_crc (ps : List Bytes) :
    ∃ a b, s.runReplyCrcs ps = { s with crcr := a, crcOut := b } := by
  induction ps generalizing s with
  | nil => exact ⟨s.crcr, s.crcOut, rfl⟩
  | cons p ps ih =>
    obtain ⟨a, b, h⟩ := ih (s.runReplyCrc p)
    refine ⟨a, b, ?_⟩
    rw [State.runReplyCrcs_cons, h]
    unfold State.runReplyCrc
    split <;> rfl

/-- Framing replies neither reads nor writes the records and `WAKE`. -/
theorem State.runReplyCrcs_with (ps : List Bytes) (devs : List Dev) (w : Bool) :
    { s with devs := devs, wake := w }.runReplyCrcs ps = { s.runReplyCrcs ps with devs := devs, wake := w } := by
  induction ps generalizing s with
  | nil => rfl
  | cons p ps ih =>
    rw [State.runReplyCrcs_cons, State.runReplyCrcs_cons, ← ih]
    congr 1
    unfold State.runReplyCrc
    split <;> rfl

end Sys2Proof.Machine
end

