-- ==== Sys2Proof/Laws/Dispatch.lean ====
section
/-! SUPPORT. What one rule does to one target, and what a dispatch does to all of them: `dispatch_eq_dispatchAll` turns
any rule that treats its targets alike into the one equation of `dispatchAll`. -/

namespace Sys2Proof.Machine

/-! ## Records -/

theorem modify_eq_set {l : List Dev} {d : Nat} {v : Dev} (f : Dev → Dev) (h : l[d]? = some v) :
    l.modify d f = l.set d (f v) := by
  apply List.ext_getElem?
  intro i
  rw [List.getElem?_modify, List.getElem?_set]
  by_cases e : d = i
  · subst e
    obtain ⟨hl, hv⟩ := List.getElem?_eq_some_iff.1 h
    simp [hl, hv]
  · simp [e]

theorem set_getElem?_self {l : List Dev} {d : Nat} {v : Dev} (h : l[d]? = some v) : l.set d v = l := by
  apply List.ext_getElem?
  intro i
  rw [List.getElem?_set]
  by_cases e : d = i
  · subst e
    obtain ⟨hl, hv⟩ := List.getElem?_eq_some_iff.1 h
    simp [hl, hv]
  · simp [e]

theorem getElem?_set_self' {l : List Dev} {d : Nat} {v : Dev} (w : Dev) (h : l[d]? = some v) :
    (l.set d w)[d]? = some w := by
  rw [List.getElem?_set]; simp [(List.getElem?_eq_some_iff.1 h).1]

theorem updateAll_getElem? (l : List Dev) (ts : List Nat) (upd : Dev → Dev) (i : Nat) :
    (updateAll l ts upd)[i]? = l[i]?.map fun v => if i ∈ ts then upd v else v := by
  simp [updateAll]

@[simp] theorem updateAll_length (l : List Dev) (ts : List Nat) (upd : Dev → Dev) :
    (updateAll l ts upd).length = l.length := by
  simp [updateAll]

theorem updateAll_nil (l : List Dev) (upd : Dev → Dev) : updateAll l [] upd = l := by
  apply List.ext_getElem?; intro i; simp [updateAll_getElem?]

theorem updateAll_set {l : List Dev} {d : Nat} {v : Dev} {ts : List Nat} (upd : Dev → Dev) (h : l[d]? = some v)
    (hd : d ∉ ts) : updateAll (l.set d (upd v)) ts upd = updateAll l (d :: ts) upd := by
  apply List.ext_getElem?
  intro i
  rw [updateAll_getElem?, updateAll_getElem?, List.getElem?_set]
  by_cases e : d = i
  · subst e
    obtain ⟨hl, hv⟩ := List.getElem?_eq_some_iff.1 h
    simp [hl, hv, hd]
  · simp [e, Ne.symm e]

/-- A change that changes no record. -/
theorem updateAll_id (l : List Dev) (ts : List Nat) : updateAll l ts id = l := by
  apply List.ext_getElem?; intro i; simp [updateAll_getElem?]

/-! ## One rule on one target -/

/-- A dispatch after a rule on target `d`, whose record is `v`. -/
def Ctx.after (x : Ctx) (d : Nat) (v : Dev) (upd : Dev → Dev) (rej : Dev → Bool) (wakes : Bool)
    (pay : Dev → Option Bytes) : Ctx :=
  { st := { x.st.runReplyCrcs (pay (upd v)).toList with
      devs := x.st.devs.set d (upd v), wake := x.st.wake || wakes }
    oor := x.oor || rej v
    replies := x.replies ++ (pay (upd v)).toList.map (frameReply x.st.cfg (upd v).address) }

/-- The rule treats every target alike, under a configuration. -/
def ActsAs (cfg : Config) (rule : Nat → Ctx → Ctx) (upd : Dev → Dev) (rej : Dev → Bool) (wakes : Bool)
    (pay : Dev → Option Bytes) : Prop :=
  ∀ x d v, x.st.cfg = cfg → x.st.devs[d]? = some v → rule d x = x.after d v upd rej wakes pay

/-- The replies of the first target, then those of the others. -/
theorem repliesOf_cons {devs : List Dev} {d : Nat} {w : Dev} (ts : List Nat) (pay : Dev → Option Bytes)
    (h : devs[d]? = some w) :
    repliesOf devs (d :: ts) pay = (pay w).toList.map (fun p => (w.address, p)) ++ repliesOf devs ts pay := by
  cases hp : pay w <;> simp [repliesOf, h, hp]

/-- All targets, one after another. -/
theorem foldl_actsAs {cfg : Config} {rule : Nat → Ctx → Ctx} {upd : Dev → Dev} {rej : Dev → Bool} {wakes : Bool}
    {pay : Dev → Option Bytes} (hr : ActsAs cfg rule upd rej wakes pay) (ts : List Nat) (x : Ctx)
    (hc : x.st.cfg = cfg) (hn : ts.Nodup) (hd : ∀ d ∈ ts, d < x.st.devs.length) :
    ts.foldl (fun x t => rule t x) x =
      { st := { x.st.runReplyCrcs ((repliesOf (updateAll x.st.devs ts upd) ts pay).map (·.2)) with
          devs := updateAll x.st.devs ts upd, wake := x.st.wake || (wakes && !ts.isEmpty) }
        oor := x.oor || ts.any fun d => (x.st.devs[d]?.map rej).getD false
        replies := x.replies ++
          (repliesOf (updateAll x.st.devs ts upd) ts pay).map fun r => frameReply cfg r.1 r.2 } := by
  induction ts generalizing x with
  | nil => cases x; simp [updateAll_nil, repliesOf]
  | cons d ts ih =>
    obtain ⟨hdn, hn'⟩ := List.nodup_cons.1 hn
    have hlt : d < x.st.devs.length := hd d (by simp)
    obtain ⟨v, hv⟩ : ∃ v, x.st.devs[d]? = some v := ⟨_, List.getElem?_eq_getElem hlt⟩
    have hx := hr x d v hc hv
    set y := x.after d v upd rej wakes pay with hy
    have hyd : y.st.devs = x.st.devs.set d (upd v) := rfl
    have hyc : y.st.cfg = cfg := by
      have : y.st.cfg = x.st.cfg := by simp [hy, Ctx.after]
      rw [this, hc]
    have hF : updateAll y.st.devs ts upd = updateAll x.st.devs (d :: ts) upd := by
      rw [hyd]; exact updateAll_set upd hv hdn
    have hFd : (updateAll x.st.devs (d :: ts) upd)[d]? = some (upd v) := by simp [updateAll_getElem?, hv]
    have hany : (ts.any fun e => (y.st.devs[e]?.map rej).getD false) =
        ts.any fun e => (x.st.devs[e]?.map rej).getD false := by
      have he : ∀ e ∈ ts, ((y.st.devs[e]?.map rej).getD false) = ((x.st.devs[e]?.map rej).getD false) := by
        intro e he
        have hne : d ≠ e := fun h => hdn (h ▸ he)
        rw [hyd, List.getElem?_set_ne hne]
      rw [Bool.eq_iff_iff, List.any_eq_true, List.any_eq_true]
      exact ⟨fun ⟨e, h1, h2⟩ => ⟨e, h1, he e h1 ▸ h2⟩, fun ⟨e, h1, h2⟩ => ⟨e, h1, (he e h1).symm ▸ h2⟩⟩
    rw [List.foldl_cons, hx, ih y hyc hn' (fun e he => by rw [hyd, List.length_set]; exact hd e (by simp [he])), hF, hany,
      repliesOf_cons ts pay hFd]
    have hst : y.st = { x.st.runReplyCrcs (pay (upd v)).toList with
      devs := x.st.devs.set d (upd v), wake := x.st.wake || wakes } := rfl
    have hoor : y.oor = (x.oor || rej v) := rfl
    have hrep : y.replies = x.replies ++ (pay (upd v)).toList.map (frameReply cfg (upd v).address) := by
      rw [← hc]; rfl
    rw [hoor, hrep, hst, State.runReplyCrcs_with, List.map_append, State.runReplyCrcs_append]
    have hw : (x.st.wake || wakes || (wakes && !ts.isEmpty)) = (x.st.wake || wakes && !(d :: ts).isEmpty) := by
      cases wakes <;> simp
    simp [hw, hv, Bool.or_assoc, List.append_assoc, Function.comp_def]

/-- `dispatch` of a rule that treats its targets alike (43_dispatch.md R192). -/
theorem dispatch_eq_dispatchAll {c : Cmd} {s : State} {rule : Bool → Nat → Ctx → Ctx} {upd : Dev → Dev}
    {rej : Dev → Bool} {wakes : Bool} {pay : Dev → Option Bytes}
    (hr : ∀ b, ActsAs s.cfg (rule b) upd rej wakes pay) (hg : GoodTargets s c.args.addr) :
    dispatch c rule s = dispatchAll s c (targets s c.args.addr) upd rej wakes pay := by
  obtain ⟨hne, hn, hd⟩ := hg
  unfold dispatch
  split
  · rename_i h; exact absurd h hne
  · rename_i d ds h
    rw [h] at hn hd ⊢
    rw [foldl_actsAs (hr _) (d :: ds) _ rfl hn hd]
    unfold dispatchAll Ctx.finish
    simp [State.emitAll, State.log, State.dropFrame]

/-- A command with no target (60_exceptions.md R264). -/
theorem dispatch_no_target {c : Cmd} {s : State} (rule : Bool → Nat → Ctx → Ctx) (h : targets s c.args.addr = []) :
    dispatch c rule s = s.raise .addressOutOfRange c.args.addr := by
  simp [dispatch, h]

/-! ## The parts of a rule on one target -/

variable {x : Ctx} {d : Nat} {v : Dev}

/-- `apply_field` (43_dispatch.md R194, R198). -/
theorem applyNum_eq (f : NumField) (bound : Option Nat) (p : Param) (h : x.st.devs[d]? = some v) :
    x.applyNum d f bound p =
      { x with
        st := { x.st with
          devs := x.st.devs.set d (((accepted x.st.cfg f bound p).map (v.setNum f)).getD v)
          wake := x.st.wake || (f == .interval && (accepted x.st.cfg f bound p).isSome) }
        oor := x.oor || rejected x.st.cfg f bound p } := by
  cases p with
  | keep => simp [Ctx.applyNum, accepted, rejected, set_getElem?_self h]
  | value n =>
    by_cases hl : (legalNum x.st.cfg f n && withinBound bound n) = true
    · by_cases hf : f = .interval
      · subst hf
        simp only [Ctx.applyNum, accepted, rejected, hl, if_true, Ctx.onState, State.modifyDev, modify_eq_set _ h,
          State.wakeUp]
        simp
      · simp only [Ctx.applyNum, accepted, rejected, hl, if_true, if_neg hf, Ctx.onState, State.modifyDev,
          modify_eq_set _ h]
        simp [hf]
    · simp [Ctx.applyNum, accepted, rejected, hl, Ctx.reject, set_getElem?_self h]

/-- `apply_mask` (43_dispatch.md R195). -/
theorem applyMask_eq (p : Param) (h : x.st.devs[d]? = some v) :
    x.applyMask d p =
      { x with
        st := { x.st with devs := x.st.devs.set d (maskedDev x.st.cfg p v) }
        oor := x.oor || maskRejected x.st.cfg p } := by
  cases p with
  | keep => simp [Ctx.applyMask, maskedDev, maskRejected, set_getElem?_self h]
  | value n =>
    by_cases hl : legalMask x.st.cfg n = true <;>
      simp [Ctx.applyMask, maskedDev, maskRejected, hl, Ctx.reject, Ctx.onState, State.modifyDev, modify_eq_set _ h,
        set_getElem?_self h]

/-- The reply of a set-class command (43_dispatch.md R194). -/
theorem setReply_eq (c : Cmd) (h : x.st.devs[d]? = some v) :
    x.setReply c d =
      { x with
        st := x.st.runReplyCrcs (setReplyOf x.st.cfg c v).toList
        replies := x.replies ++ (setReplyOf x.st.cfg c v).toList.map (frameReply x.st.cfg v.address) } := by
  unfold Ctx.setReply setReplyOf
  rw [h]
  cases hr : x.st.cfg.setReply c v.blockView <;> simp [hr, Ctx.reply, State.runReplyCrcs]

/-- One schema entry (44_commands.md R224). -/
theorem applyEntry_eq (c : Cmd) (i : Nat) (e : SchemaEntry) (h : x.st.devs[d]? = some v) :
    x.applyEntry c d i e =
      { x with
        st := { x.st with
          devs := x.st.devs.set d (entryDev x.st.cfg c i e v)
          wake := x.st.wake || entryWakes x.st.cfg c i e }
        oor := x.oor || entryRejected x.st.cfg c i e } := by
  cases e with
  | num f form bound =>
    rw [Ctx.applyEntry, applyNum_eq _ _ _ h]
    have : entryDev x.st.cfg c i (.num f form bound) v =
        ((accepted x.st.cfg f bound (numParam x.st.cfg c i f form)).map (v.setNum f)).getD v := by
      unfold entryDev; dsimp only
      cases accepted x.st.cfg f bound (numParam x.st.cfg c i f form) <;> rfl
    rw [this]
    cases f <;> simp [entryWakes, entryRejected, numParam]
  | text f =>
    cases ht : c.args.fields[i]? <;>
      simp [Ctx.applyEntry, Ctx.applyText, entryDev, entryWakes, entryRejected, ht, Ctx.onState, State.modifyDev,
        modify_eq_set _ h, set_getElem?_self h]
  | mask =>
    rw [Ctx.applyEntry, applyMask_eq _ h]
    simp [entryDev, entryWakes, entryRejected, maskParam]

/-- A schema from position `i` on (44_commands.md R224). -/
theorem applySchema_eq (c : Cmd) (es : List SchemaEntry) (i : Nat) (x : Ctx) (v : Dev) (h : x.st.devs[d]? = some v) :
    x.applySchema c d i es =
      { x with
        st := { x.st with
          devs := x.st.devs.set d ((es.zipIdx i).foldl (fun w e => entryDev x.st.cfg c e.2 e.1 w) v)
          wake := x.st.wake || (es.zipIdx i).any fun e => entryWakes x.st.cfg c e.2 e.1 }
        oor := x.oor || (es.zipIdx i).any fun e => entryRejected x.st.cfg c e.2 e.1 } := by
  induction es generalizing i x v with
  | nil => simp [Ctx.applySchema, set_getElem?_self h]
  | cons e es ih =>
    rw [Ctx.applySchema, applyEntry_eq c i e h,
      ih (i + 1) _ (entryDev x.st.cfg c i e v) (getElem?_set_self' _ h)]
    simp [List.set_set, Bool.or_assoc]

/-! ## The rules of the commands that treat their targets alike -/

theorem aSetRule_actsAs (cfg : Config) (c : Cmd) :
    ActsAs cfg (aSetRule c)
      (fun v =>
        let w := ((accepted cfg .fmt none (param cfg cfg.numericDefault.fmt c.args.fields 0 parseUint)).map
          (v.setNum .fmt)).getD v
        ((accepted cfg .interval none (param cfg cfg.numericDefault.interval c.args.fields 1 parseFix2)).map
          (w.setNum .interval)).getD w)
      (fun _ =>
        rejected cfg .fmt none (param cfg cfg.numericDefault.fmt c.args.fields 0 parseUint) ||
          rejected cfg .interval none (param cfg cfg.numericDefault.interval c.args.fields 1 parseFix2))
      (accepted cfg .interval none (param cfg cfg.numericDefault.interval c.args.fields 1 parseFix2)).isSome
      (setReplyOf cfg c) := by
  intro x d v hc h
  subst hc
  unfold aSetRule
  simp only
  rw [applyNum_eq .fmt none _ h, applyNum_eq .interval none _ (getElem?_set_self' _ h),
    setReply_eq c (getElem?_set_self' _ (getElem?_set_self' _ h))]
  have hf : (NumField.fmt == NumField.interval) = false := rfl
  simp [Ctx.after, State.runReplyCrcs_with, List.set_set, Bool.or_assoc, hf]

theorem setRule_actsAs (cfg : Config) (c : Cmd) (schema : List SchemaEntry) :
    ActsAs cfg (setRule c schema) (schemaDev cfg c schema) (fun _ => schemaRejected cfg c schema)
      (schemaWakes cfg c schema) (setReplyOf cfg c) := by
  intro x d v hc h
  subst hc
  unfold setRule
  rw [applySchema_eq c schema 0 x v h, setReply_eq c (getElem?_set_self' _ h)]
  simp [Ctx.after, State.runReplyCrcs_with, schemaDev, schemaRejected, schemaWakes]

theorem maskRule_actsAs (cfg : Config) (c : Cmd) :
    ActsAs cfg (maskRule c) (maskedDev cfg (maskParam cfg c 0)) (fun _ => maskRejected cfg (maskParam cfg c 0)) false
      (setReplyOf cfg c) := by
  intro x d v hc h
  subst hc
  unfold maskRule
  rw [applyMask_eq _ h, setReply_eq c (getElem?_set_self' _ h)]
  have := x.st.runReplyCrcs_with (setReplyOf x.st.cfg c (maskedDev x.st.cfg (maskParam x.st.cfg c 0) v)).toList
    (x.st.devs.set d (maskedDev x.st.cfg (maskParam x.st.cfg c 0) v)) x.st.wake
  simp only [Ctx.after, Bool.or_false]
  rw [← this]
  rfl

theorem formRule_actsAs (cfg : Config) (c : Cmd) :
    ActsAs cfg (formRule c) (formDev cfg c) (fun _ => (cfg.compileFormat c.args.rawtail).isNone) false
      (setReplyOf cfg c) := by
  intro x d v hc h
  subst hc
  unfold formRule formDev
  cases x.st.cfg.compileFormat c.args.rawtail with
  | none =>
    simp only [Ctx.reject]
    rw [setReply_eq c (x := { x with oor := true }) h]
    have := x.st.runReplyCrcs_with (setReplyOf x.st.cfg c v).toList x.st.devs x.st.wake
    simp only [Ctx.after, set_getElem?_self h, Bool.or_false, Option.isNone_none, Bool.or_true]
    rw [← this]
  | some p =>
    simp only [Ctx.onState, State.modifyDev, modify_eq_set _ h]
    rw [setReply_eq c (getElem?_set_self' _ h)]
    have := x.st.runReplyCrcs_with (setReplyOf x.st.cfg c { v with formatProgram := p }).toList
      (x.st.devs.set d { v with formatProgram := p }) x.st.wake
    simp only [Ctx.after, Bool.or_false, Option.isNone_some]
    rw [← this]

theorem pinOk_calDev (cfg : Config) (c : Cmd) (v : Dev) : pinOk cfg c (calDev cfg c v) = pinOk cfg c v := by
  unfold calDev
  split
  · rfl
  · split <;> rfl

theorem calRule_actsAs (cfg : Config) (c : Cmd) :
    ActsAs cfg (calRule c) (calDev cfg c) (fun v => !pinOk cfg c v) false (calReply cfg c) := by
  intro x d v hc h
  subst hc
  have hp := pinOk_calDev x.st.cfg c v
  unfold calRule Ctx.after calReply
  rw [hp]
  simp only [h]
  by_cases hk : pinOk x.st.cfg c v = true
  · simp only [hk, if_true]
    unfold calDev calEntry
    cases param x.st.cfg x.st.cfg.numericDefault.calPoint c.args.fields 1 parseUint with
    | keep => simp [set_getElem?_self h]
    | value point =>
      cases c.args.fields[2]? with
      | none => simp [set_getElem?_self h]
      | some t =>
        simp only [Ctx.onState, State.modifyDev, modify_eq_set _ h]
        rw [setReply_eq c (getElem?_set_self' _ h)]
        have := x.st.runReplyCrcs_with
          (setReplyOf x.st.cfg c { v with calibration := tabSet v.calibration point t }).toList
          (x.st.devs.set d { v with calibration := tabSet v.calibration point t }) x.st.wake
        simp only [hk, if_true, Bool.true_and, Option.isSome_some, Bool.or_false, Bool.not_true]
        rw [← this]
  · have hd : calDev x.st.cfg c v = v := by
      unfold calDev; split
      · rfl
      · simp [hk]
    simp [hk, hd, Ctx.reject, set_getElem?_self h]

theorem modeRule_actsAs (cfg : Config) (m : Mode) :
    ActsAs cfg (modeRule m) (fun v => { v with mode := m }) (fun _ => false) true (fun _ => none) := by
  intro x d v _ h
  simp [modeRule, Ctx.setMode, Ctx.onState, State.modifyDev, State.wakeUp, Ctx.after, modify_eq_set _ h]

/-- A reply that changes no record. -/
theorem reply_after {x : Ctx} {d : Nat} {v : Dev} (p : Bytes) (h : x.st.devs[d]? = some v) :
    x.reply v.address p = x.after d v id (fun _ => false) false (fun _ => some p) := by
  have := x.st.runReplyCrcs_with [p] x.st.devs x.st.wake
  simp only [Ctx.reply, Ctx.after, id, set_getElem?_self h, Bool.or_false, Option.toList_some, List.map_cons,
    List.map_nil]
  rw [← this]
  rfl

theorem queryRule_actsAs (cfg : Config) (c : Cmd) :
    ActsAs cfg (queryRule c) id (fun _ => false) false
      (fun v => some (cfg.queryPayload c v.blockView)) := by
  intro x d v hc h
  subst hc
  simp only [queryRule, h]
  exact reply_after _ h

theorem aQueryRule_actsAs (cfg : Config) :
    ActsAs cfg aQueryRule id (fun _ => false) false
      (fun v => some (dec v.fmt ++ [Ascii.comma] ++ renderInterval v.interval)) := by
  intro x d v _ h
  simp only [aQueryRule, h]
  exact reply_after _ h

theorem sendRule_actsAs (cfg : Config) :
    ActsAs cfg sendRule id (fun _ => false) true (fun v => some (cfg.formatMeasurement v.blockView)) := by
  intro x d v hc h
  subst hc
  simp only [sendRule, h]
  rw [reply_after _ h]
  simp [Ctx.after, Ctx.onState, State.wakeUp]

end Sys2Proof.Machine
end

