-- ==== Sys2Proof/Laws/Table.lean ====
section
/-! SUPPORT. Reading after writing and the canonical form of a table. -/

namespace Sys2Proof.Machine

variable {α : Type}

theorem tabGet_tabSet_same (t : List (Nat × α)) (k : Nat) (v : α) : tabGet (tabSet t k v) k = some v := by
  induction t with
  | nil => simp [tabSet, tabGet]
  | cons e t ih =>
    obtain ⟨k', v'⟩ := e
    by_cases h1 : k < k'
    · simp [tabSet, tabGet, h1]
    · by_cases h2 : k = k' <;> simp [tabSet, tabGet, h1, h2]
      simpa [tabGet, h2] using ih

theorem tabGet_tabSet_other (t : List (Nat × α)) {k j : Nat} (v : α) (h : j ≠ k) :
    tabGet (tabSet t k v) j = tabGet t j := by
  induction t with
  | nil => simp [tabSet, tabGet, h]
  | cons e t ih =>
    obtain ⟨k', v'⟩ := e
    by_cases h1 : k < k'
    · simp [tabSet, tabGet, h1, h]
    · by_cases h2 : k = k'
      · subst h2; simp [tabSet, tabGet, h]
      · by_cases h3 : j = k' <;> simp [tabSet, tabGet, h1, h2, h3, ih]

theorem tabGet_tabDel_same (t : List (Nat × α)) (k : Nat) : tabGet (tabDel t k) k = none := by
  induction t with
  | nil => rfl
  | cons e t ih =>
    obtain ⟨k', v'⟩ := e
    by_cases h : k = k' <;> simp [tabDel, tabGet, h]
    · simpa [h] using ih
    · simpa using ih

theorem tabGet_tabDel_other (t : List (Nat × α)) {k j : Nat} (h : j ≠ k) : tabGet (tabDel t k) j = tabGet t j := by
  induction t with
  | nil => rfl
  | cons e t ih =>
    obtain ⟨k', v'⟩ := e
    by_cases h1 : k = k'
    · subst h1; simp [tabDel, tabGet, h, ih]
    · by_cases h3 : j = k' <;> simp [tabDel, tabGet, h1, h3, ih]

theorem mem_keys_tabSet {t : List (Nat × α)} {k j : Nat} {v : α} (h : j ∈ (tabSet t k v).map Prod.fst) :
    j = k ∨ j ∈ t.map Prod.fst := by
  induction t with
  | nil => simpa [tabSet] using h
  | cons e t ih =>
    obtain ⟨k', v'⟩ := e
    unfold tabSet at h
    split at h
    · simpa using h
    · split at h
      · rename_i h2; subst h2; simpa using h
      · rcases (by simpa using h : j = k' ∨ j ∈ (tabSet t k v).map Prod.fst) with h | h
        · simp [h]
        · rcases ih h with h | h
          · exact .inl h
          · right; simp only [List.map_cons, List.mem_cons]; exact .inr h

theorem tabWf_tabSet {t : List (Nat × α)} (k : Nat) (v : α) (h : tabWf t) : tabWf (tabSet t k v) := by
  induction t with
  | nil => simp [tabSet, tabWf]
  | cons e t ih =>
    obtain ⟨k', v'⟩ := e
    have hh : (∀ j ∈ t.map Prod.fst, k' < j) ∧ tabWf t := by simpa [tabWf, List.pairwise_cons] using h
    unfold tabSet
    split
    · rename_i h1
      refine List.pairwise_cons.2 ⟨fun j hj => ?_, h⟩
      rcases (by simpa using hj : j = k' ∨ j ∈ t.map Prod.fst) with rfl | hj
      · exact h1
      · exact h1.trans (hh.1 j hj)
    · split
      · rename_i h2; subst h2; exact List.pairwise_cons.2 hh
      · rename_i h1 h2
        refine List.pairwise_cons.2 ⟨fun j hj => ?_, ih hh.2⟩
        rcases mem_keys_tabSet hj with rfl | hj
        · show k' < j; omega
        · exact hh.1 j hj

theorem tabDel_sublist (t : List (Nat × α)) (k : Nat) : (tabDel t k).Sublist t := by
  induction t with
  | nil => exact List.Sublist.slnil
  | cons e t ih =>
    obtain ⟨k', v'⟩ := e
    unfold tabDel
    split
    · exact ih.cons _
    · exact ih.cons_cons _

theorem tabWf_tabDel {t : List (Nat × α)} (k : Nat) (h : tabWf t) : tabWf (tabDel t k) :=
  List.Pairwise.sublist ((tabDel_sublist t k).map Prod.fst) h

end Sys2Proof.Machine
end

