-- ==== Sys2Proof/Laws/Effect.lean ====
section
/-! SUPPORT. Everything an instruction can do to the state, said once: `exec_acts` says that a next state is reached by
elementary acts, so that what every act keeps, every instruction keeps. -/

namespace Sys2Proof.Machine

/-- A change of a record that a command may make: legal fields stay legal (10_state.md R46); the identity, the address,
the measurement and the timestamp stay. -/
structure DevChange (cfg : Config) (f : Dev → Dev) : Prop where
  legal : ∀ v, v.legal cfg → (f v).legal cfg
  serial : ∀ v, (f v).serial = v.serial
  model : ∀ v, (f v).model = v.model
  address : ∀ v, (f v).address = v.address
  meas : ∀ v, (f v).meas = v.meas
  lastTx : ∀ v, (f v).lastTx = v.lastTx

/-- One elementary act of the receive path. -/
inductive Act : State → State → Prop where
  /-- The CRC unit runs. -/
  | crc (s : State) (x y : Half) : Act s { s with crcr := x, crcOut := y }
  /-- The XOR unit runs. -/
  | xor (s : State) (x : Byte) : Act s { s with xacc := x }
  /-- The frame latch. -/
  | latch (s : State) (f : Option Frame) : Act s { s with frame := f }
  /-- The receive buffer is cleared (41_framing.md R131, R134). -/
  | clear (s : State) : Act s { s with rxbuf := [], rxdisc := false }
  /-- A data byte is stored (R131). -/
  | store (s : State) (b : Byte) (ht : s.cfg.family.isTerminator b = false) (hd : s.rxdisc = false)
      (hl : s.rxbuf.length ≠ s.cfg.rxbufMax) : Act s { s with rxbuf := s.rxbuf ++ [b], rxdisc := false }
  /-- Overflow, up to the terminator (R132). -/
  | skip (s : State) (hr : s.cfg.overflowResync = .skipToTerminator) : Act s { s with rxbuf := [], rxdisc := true }
  /-- Overflow, the line restarted (R132). -/
  | restart (s : State) (b : Byte) (ht : s.cfg.family.isTerminator b = false) (hd : s.rxdisc = false) :
      Act s { s with rxbuf := [b], rxdisc := s.rxdisc }
  /-- One log entry (10_state.md R52). -/
  | log (s : State) (e : LogEntry) : Act s { s with outlog := s.outlog ++ [e] }
  /-- Messages are queued (R51). -/
  | emit (s : State) (ms : List Bytes) : Act s { s with txq := s.txq ++ ms }
  /-- The REFUSED mark (R53). -/
  | refuse (s : State) : Act s { s with refused := true }
  /-- `wake()` (R49). -/
  | wake (s : State) : Act s { s with wake := true }
  /-- A record changes in neither mode nor interval. -/
  | quiet (s : State) (d : Nat) (f : Dev → Dev) (hf : DevChange s.cfg f) (hm : ∀ v, (f v).mode = v.mode)
      (hi : ∀ v, (f v).interval = v.interval) : Act s { s with devs := s.devs.modify d f }
  /-- A record changes, and the sender is woken (43_dispatch.md R198). -/
  | loud (s : State) (d : Nat) (f : Dev → Dev) (hf : DevChange s.cfg f) :
      Act s { s with devs := s.devs.modify d f, wake := true }
  /-- A device moves to a free address (44_commands.md R222). -/
  | move (s : State) (d : Nat) (v : Dev) (new : Nat) (hv : s.devs[d]? = some v) (hn : new ≠ v.address)
      (hb : new ≤ s.cfg.addrMax) (hfree : tabGet s.atab new = none) : Act s (s.moveDev d v.address new)

/-- Acts one after another. -/
inductive Acts : State → State → Prop where
  | refl (s : State) : Acts s s
  | tail {s t u : State} (h : Acts s t) (a : Act t u) : Acts s u

theorem Act.acts {s t : State} (a : Act s t) : Acts s t := .tail (.refl s) a

theorem Acts.trans {s t u : State} (h : Acts s t) (g : Acts t u) : Acts s u := by
  induction g with
  | refl => exact h
  | tail _ a ih => exact .tail ih a

/-- What every act keeps, acts keep. -/
theorem Acts.keep {P : State → Prop} (hP : ∀ s t, Act s t → P s → P t) {s t : State} (h : Acts s t) (hs : P s) : P t := by
  induction h with
  | refl => exact hs
  | tail _ a ih => exact hP _ _ a ih

theorem Act.cfg_eq {s t : State} (a : Act s t) : t.cfg = s.cfg := by cases a <;> rfl

theorem Acts.cfg_eq {s t : State} (h : Acts s t) : t.cfg = s.cfg :=
  h.keep (P := fun u => u.cfg = s.cfg) (fun _ _ a e => a.cfg_eq.trans e) rfl

/-! ## The operations -/

theorem acts_runCrc (s : State) (span : Bytes) : Acts s (s.runCrc span) := (Act.crc s _ _).acts

theorem acts_runReplyCrc (s : State) (p : Bytes) : Acts s (s.runReplyCrc p) := by
  unfold State.runReplyCrc; split
  · exact .refl s
  · exact acts_runCrc s _

theorem acts_runVerifyCrc (s : State) (h span : Bytes) : Acts s (s.runVerifyCrc h span) := by
  unfold State.runVerifyCrc; split
  · exact acts_runCrc s _
  · exact .refl s

theorem acts_raise (s : State) (o : OutcomeCode) (addr : Option Nat) : Acts s (s.raise o addr) :=
  (((Act.emit s _).acts.tail (.log _ _)).tail (.latch _ none))

theorem acts_setReply (x : Ctx) (c : Cmd) (d : Nat) : Acts x.st (x.setReply c d).st := by
  unfold Ctx.setReply
  split
  · exact .refl _
  · split
    · exact .refl _
    · exact acts_runReplyCrc _ _

theorem DevChange.setNum (cfg : Config) (f : NumField) (n : Nat) (h : legalNum cfg f n = true) :
    DevChange cfg (·.setNum f n) := by
  cases f <;> simp only [legalNum, decide_eq_true_eq] at h <;>
    refine ⟨fun v hv => ?_, fun _ => rfl, fun _ => rfl, fun _ => rfl, fun _ => rfl, fun _ => rfl⟩ <;>
    simp_all [Dev.setNum, Dev.legal]

theorem DevChange.setText (cfg : Config) (f : TextField) (t : Bytes) : DevChange cfg (·.setText f t) := by
  cases f <;>
    exact ⟨fun v hv => hv, fun _ => rfl, fun _ => rfl, fun _ => rfl, fun _ => rfl, fun _ => rfl⟩

theorem acts_applyNum (x : Ctx) (d : Nat) (f : NumField) (bound : Option Nat) (p : Param) :
    Acts x.st (x.applyNum d f bound p).st := by
  cases p with
  | keep => exact .refl _
  | value n =>
    unfold Ctx.applyNum
    dsimp only
    split
    · rename_i h
      have hc := DevChange.setNum x.st.cfg f n (by simp only [Bool.and_eq_true] at h; exact h.1)
      split
      · exact (Act.loud x.st d _ hc).acts
      · rename_i hf
        refine (Act.quiet x.st d _ hc (fun v => ?_) (fun v => ?_)).acts <;> cases f <;> simp_all [Dev.setNum]
    · exact .refl _

theorem acts_applyMask (x : Ctx) (d : Nat) (p : Param) : Acts x.st (x.applyMask d p).st := by
  cases p with
  | keep => exact .refl _
  | value n =>
    unfold Ctx.applyMask
    dsimp only
    split
    · rename_i h
      refine (Act.quiet x.st d (fun v => { v with fieldMask := n }) ⟨fun v hv => ?_, fun _ => rfl, fun _ => rfl, fun _ => rfl, fun _ => rfl, fun _ => rfl⟩
        (fun _ => rfl) (fun _ => rfl)).acts
      obtain ⟨h1, h2, h3, h4, h5, h6, -, h8⟩ := hv
      exact ⟨h1, h2, h3, h4, h5, h6, h, h8⟩
    · exact .refl _

theorem acts_applyText (x : Ctx) (d : Nat) (f : TextField) (t : Option Bytes) :
    Acts x.st (x.applyText d f t).st := by
  cases t with
  | none => exact .refl _
  | some t =>
    refine (Act.quiet x.st d _ (DevChange.setText _ f t) (fun v => ?_) (fun v => ?_)).acts <;> cases f <;> rfl

theorem acts_applyEntry (x : Ctx) (c : Cmd) (d i : Nat) (e : SchemaEntry) : Acts x.st (x.applyEntry c d i e).st := by
  cases e with
  | num f form bound => exact acts_applyNum x d f bound _
  | text f => exact acts_applyText x d f _
  | mask => exact acts_applyMask x d _

theorem acts_applySchema (c : Cmd) (d : Nat) (es : List SchemaEntry) (i : Nat) (x : Ctx) :
    Acts x.st (x.applySchema c d i es).st := by
  induction es generalizing i x with
  | nil => exact .refl _
  | cons e es ih => exact (acts_applyEntry x c d i e).trans (ih (i + 1) _)

/-! ## The rules -/

theorem acts_aSetRule (c : Cmd) (d : Nat) (x : Ctx) : Acts x.st (aSetRule c d x).st :=
  ((acts_applyNum x d .fmt none _).trans (acts_applyNum _ d .interval none _)).trans (acts_setReply _ c d)

theorem acts_aQueryRule (d : Nat) (x : Ctx) : Acts x.st (aQueryRule d x).st := by
  unfold aQueryRule; split
  · exact .refl _
  · exact acts_runReplyCrc _ _

theorem acts_nAddrRule (c : Cmd) (several : Bool) (d : Nat) (x : Ctx) : Acts x.st (nAddrRule c several d x).st := by
  unfold nAddrRule
  split
  · exact .refl _
  split
  · exact .refl _
  rename_i new _
  split
  · exact .refl _
  rename_i v hv
  split
  · exact .refl _
  rename_i hb
  simp only [Bool.or_eq_true, decide_eq_true_eq, not_or, gt_iff_lt, not_lt] at hb
  split
  · exact acts_setReply x c d
  rename_i hn
  split
  · exact .refl _
  rename_i hfree
  simp only [Option.not_isSome_iff_eq_none] at hfree
  exact (Act.move x.st d v new hv hn hb.2 hfree).acts.trans
    (acts_setReply (x.onState fun s => s.moveDev d v.address new) c d)

theorem acts_queryRule (c : Cmd) (d : Nat) (x : Ctx) : Acts x.st (queryRule c d x).st := by
  unfold queryRule; split
  · exact .refl _
  · exact acts_runReplyCrc _ _

theorem acts_setRule (c : Cmd) (schema : List SchemaEntry) (d : Nat) (x : Ctx) : Acts x.st (setRule c schema d x).st :=
  (acts_applySchema c d schema 0 x).trans (acts_setReply _ c d)

theorem acts_maskRule (c : Cmd) (d : Nat) (x : Ctx) : Acts x.st (maskRule c d x).st :=
  (acts_applyMask x d _).trans (acts_setReply _ c d)

theorem acts_formRule (c : Cmd) (d : Nat) (x : Ctx) : Acts x.st (formRule c d x).st := by
  unfold formRule
  refine Acts.trans ?_ (acts_setReply _ c d)
  split
  · exact .refl _
  · rename_i p _
    exact (Act.quiet x.st d (fun v => { v with formatProgram := p }) ⟨fun _ hv => hv, fun _ => rfl, fun _ => rfl, fun _ => rfl, fun _ => rfl, fun _ => rfl⟩
      (fun _ => rfl) (fun _ => rfl)).acts

theorem acts_modeRule (m : Mode) (d : Nat) (x : Ctx) : Acts x.st (modeRule m d x).st :=
  (Act.loud x.st d (fun v => { v with mode := m })
    ⟨fun _ hv => hv, fun _ => rfl, fun _ => rfl, fun _ => rfl, fun _ => rfl, fun _ => rfl⟩).acts

theorem acts_sendRule (d : Nat) (x : Ctx) : Acts x.st (sendRule d x).st := by
  unfold sendRule; split
  · exact .refl _
  · exact (acts_runReplyCrc _ _).tail (.wake _)

theorem acts_calRule (c : Cmd) (d : Nat) (x : Ctx) : Acts x.st (calRule c d x).st := by
  unfold calRule
  split
  · exact .refl _
  split
  · split
    · rename_i point t _ _
      exact (Act.quiet x.st d (fun v => { v with calibration := tabSet v.calibration point t })
        ⟨fun _ hv => ⟨hv.1, hv.2.1, hv.2.2.1, hv.2.2.2.1, hv.2.2.2.2.1, hv.2.2.2.2.2.1, hv.2.2.2.2.2.2.1,
            tabWf_tabSet point t hv.2.2.2.2.2.2.2⟩,
          fun _ => rfl, fun _ => rfl, fun _ => rfl, fun _ => rfl, fun _ => rfl⟩
        (fun _ => rfl) (fun _ => rfl)).acts.trans
        (acts_setReply (x.onState (·.modifyDev d fun v => { v with calibration := tabSet v.calibration point t })) c d)
    · exact .refl _
    · exact .refl _
  · exact .refl _

/-! ## Dispatch and the instructions -/

theorem acts_foldl {rule : Nat → Ctx → Ctx} (hr : ∀ d x, Acts x.st (rule d x).st) (ts : List Nat) (x : Ctx) :
    Acts x.st (ts.foldl (fun x t => rule t x) x).st := by
  induction ts generalizing x with
  | nil => exact .refl _
  | cons d ts ih => exact (hr d x).trans (ih _)

theorem acts_finish (x : Ctx) (c : Cmd) : Acts x.st (x.finish c) :=
  (((Act.emit x.st x.replies).acts.tail (.log _ _)).tail (.latch _ none))

theorem acts_dispatch {rule : Bool → Nat → Ctx → Ctx} (hr : ∀ b d x, Acts x.st (rule b d x).st) (c : Cmd) (s : State) :
    Acts s (dispatch c rule s) := by
  unfold dispatch
  split
  · exact acts_raise s _ _
  · rename_i d ds _
    exact (acts_foldl (hr (!ds.isEmpty)) (d :: ds) { st := s, oor := false, replies := [] }).trans (acts_finish _ c)

theorem acts_dispatchRefused (c : Cmd) (s : State) : Acts s (dispatchRefused c s) := by
  unfold dispatchRefused
  split
  · exact acts_raise s _ _
  · exact ((Act.refuse s).acts.tail (.log _ _)).tail (.latch _ none)

theorem acts_dispatchClass (c : Cmd) (s : State) : Acts s (dispatchClass c s) := by
  unfold dispatchClass
  split
  · exact acts_dispatchRefused c s
  · exact acts_dispatch (fun _ => acts_setRule c _) c s
  · exact acts_dispatch (fun _ => acts_maskRule c) c s
  · exact acts_dispatch (fun _ => acts_queryRule c) c s
  · exact acts_dispatch (fun _ => acts_modeRule _) c s

/-- A result that is a next state reached by acts. -/
def GoesOn (s : State) (r : Result) : Prop := ∃ t, r = .next t ∧ Acts s t

theorem GoesOn.of_acts {s t : State} (h : Acts s t) : GoesOn s (.next t) := ⟨t, rfl, h⟩

theorem GoesOn.after {s t : State} {r : Result} (h : Acts s t) (g : GoesOn t r) : GoesOn s r :=
  let ⟨u, hu, ha⟩ := g
  ⟨u, hu, h.trans ha⟩

/-- Every command completes (43_dispatch.md R192). -/
theorem goesOn_execCmd (c : Cmd) (s : State) : GoesOn s (execCmd c s) := by
  unfold execCmd
  split
  · split
    · exact .of_acts (acts_dispatch (fun _ => acts_aQueryRule) _ _)
    · exact .of_acts (acts_dispatch (fun _ => acts_aSetRule _) _ _)
  · exact .of_acts (acts_dispatch (fun _ => acts_nAddrRule _ _) _ _)
  · exact .of_acts (acts_dispatch (fun _ => acts_queryRule _) _ _)
  · exact .of_acts (acts_dispatch (fun _ => acts_setRule _ _) _ _)
  · exact .of_acts (acts_dispatch (fun _ => acts_setRule _ _) _ _)
  · exact .of_acts (acts_dispatch (fun _ => acts_formRule _) _ _)
  · exact .of_acts (acts_dispatch (fun _ => acts_maskRule _) _ _)
  · exact .of_acts (acts_dispatch (fun _ => acts_calRule _) _ _)
  · exact .of_acts (acts_dispatch (fun _ => acts_modeRule _) _ _)
  · exact .of_acts (acts_dispatch (fun _ => acts_modeRule _) _ _)
  · exact .of_acts (acts_dispatch (fun _ => acts_modeRule _) _ _)
  · exact .of_acts (acts_dispatch (fun _ => acts_modeRule _) _ _)
  · exact .of_acts (acts_dispatch (fun _ => acts_sendRule) _ _)
  · exact .of_acts (acts_dispatchClass _ _)
  · exact .of_acts (acts_dispatchClass _ _)
  · exact .of_acts (acts_dispatchClass _ _)

theorem goesOn_runPayload (addr : Option Nat) (p : Bytes) (s : State) : GoesOn s (runPayload addr p s) := by
  unfold runPayload
  split
  · exact .of_acts (acts_raise s _ _)
  · exact goesOn_execCmd _ s

/-- Every frame step completes (43_dispatch.md R199, R200). -/
theorem goesOn_frameStep (raw : Bytes) (s : State) : GoesOn s (frameStep raw s) := by
  unfold frameStep
  split
  · exact .of_acts (acts_raise s _ _)
  split
  · exact .of_acts (acts_raise s _ _)
  split
  · unfold checkLine
    split
    · exact goesOn_runPayload _ _ s
    split
    · split
      · exact goesOn_runPayload _ _ s
      · exact .of_acts (acts_raise s _ _)
    · exact goesOn_runPayload _ _ s
  · unfold checkBlock
    split
    · dsimp only
      split
      · exact .after (acts_runVerifyCrc s _ _) (goesOn_runPayload _ _ _)
      · exact .of_acts ((acts_runVerifyCrc s _ _).trans (acts_raise _ _ _))
    · exact goesOn_runPayload _ _ s

/-- Every receive step completes (43_dispatch.md R200). -/
theorem goesOn_execRxByte (b : Byte) (s : State) : GoesOn s (execRxByte b s) := by
  have hclear : Acts s (s.setRx [] false) := (Act.clear s).acts
  unfold execRxByte
  split
  · exact .of_acts (.refl s)
  split
  · unfold receiveTerminator
    split
    · exact .of_acts hclear
    split
    · split
      · exact .of_acts (.refl s)
      · exact .after hclear (goesOn_frameStep _ _)
    · exact .after hclear (goesOn_frameStep _ _)
  · rename_i ht
    simp only [Bool.not_eq_true] at ht
    refine .of_acts ?_
    unfold receiveData
    split
    · exact .refl s
    rename_i hd
    simp only [Bool.not_eq_true] at hd
    split
    · unfold overflow
      split
      · exact (Act.log s _).acts.tail (.skip _ ‹_›)
      · exact (Act.log s _).acts.tail (.restart _ b ht hd)
    · exact (Act.store s b ht hd ‹_›).acts

/-- An instruction other than EXTRACT_BLOCK always gives a next state; it, and EXTRACT_BLOCK where it gives one, do so
by acts. -/
theorem exec_acts {i : Instr} {s t : State} (h : exec i s = .next t) : Acts s t := by
  have hg : ∀ {r : Result}, GoesOn s r → r = .next t → Acts s t := by
    rintro r ⟨u, hu, ha⟩ h
    rw [hu] at h
    cases h
    exact ha
  cases i with
  | crc16Init => cases h; exact (Act.crc s _ s.crcOut).acts
  | crc16Byte b => cases h; exact (Act.crc s _ s.crcOut).acts
  | crc16Final => cases h; exact (Act.crc s s.crcr _).acts
  | xorInit => cases h; exact (Act.xor s _).acts
  | xorByte b => cases h; exact (Act.xor s _).acts
  | rxByte b => exact hg (goesOn_execRxByte b s) h
  | extractBlock r =>
    simp only [exec, execExtractBlock] at h
    split at h
    · cases h
    · cases h
      split
      · exact acts_raise s _ _
      · exact (Act.latch s _).acts
  | verifyCrc crcfield span =>
    cases h
    dsimp only
    split
    · exact (acts_runVerifyCrc s _ _).tail (.latch _ _)
    · exact (acts_runVerifyCrc s _ _).trans (acts_raise _ _ _)
  | aSet a => exact hg (.of_acts (acts_dispatch (fun _ => acts_aSetRule _) _ _)) h
  | aQuery a => exact hg (.of_acts (acts_dispatch (fun _ => acts_aQueryRule) _ _)) h
  | nAddr a => exact hg (.of_acts (acts_dispatch (fun _ => acts_nAddrRule _ _) _ _)) h
  | get a => exact hg (.of_acts (acts_dispatch (fun _ => acts_queryRule _) _ _)) h
  | set a => exact hg (.of_acts (acts_dispatch (fun _ => acts_setRule _ _) _ _)) h
  | setnc a => exact hg (.of_acts (acts_dispatch (fun _ => acts_setRule _ _) _ _)) h
  | form a => exact hg (.of_acts (acts_dispatch (fun _ => acts_formRule _) _ _)) h
  | fmask a => exact hg (.of_acts (acts_dispatch (fun _ => acts_maskRule _) _ _)) h
  | cal a => exact hg (.of_acts (acts_dispatch (fun _ => acts_calRule _) _ _)) h
  | start a => exact hg (.of_acts (acts_dispatch (fun _ => acts_modeRule _) _ _)) h
  | run a => exact hg (.of_acts (acts_dispatch (fun _ => acts_modeRule _) _ _)) h
  | stop a => exact hg (.of_acts (acts_dispatch (fun _ => acts_modeRule _) _ _)) h
  | send a => exact hg (.of_acts (acts_dispatch (fun _ => acts_sendRule) _ _)) h
  | poll a => exact hg (.of_acts (acts_dispatch (fun _ => acts_modeRule _) _ _)) h
  | r a => exact hg (.of_acts (acts_dispatchClass _ _)) h
  | reset a => exact hg (.of_acts (acts_dispatchClass _ _)) h

end Sys2Proof.Machine
end

