-- ==== Sys2Proof/Laws/External.lean ====
section
/-! SUPPORT. What a function parameter of the configuration is, and that every function can be one at any finite number of
arguments (00_scope.md R7, R8). -/

namespace Sys2Proof

variable {α β : Type} [DecidableEq α]

/-- At an argument that the graph does not list, a parameter is what it is elsewhere. -/
theorem FnParam.apply_unlisted (p : FnParam α β) (free : Nat → α → β) {a : α} (h : ∀ e ∈ p.graph, e.1 ≠ a) :
    p.apply free a =
      match p.elsewhere with
      | .const b => b
      | .free code => free code a := by
  have hn : (p.graph.find? fun e => e.1 = a) = none := List.find?_eq_none.2 fun e he => by simpa using h e he
  cases hp : p.elsewhere <;> simp only [FnParam.apply, hn, hp]

/-- At an argument that the graph lists once or with one value only, a parameter has that value. -/
theorem FnParam.apply_listed (p : FnParam α β) (free : Nat → α → β) {a : α} {b : β} (h : (a, b) ∈ p.graph)
    (hu : ∀ e ∈ p.graph, e.1 = a → e.2 = b) : p.apply free a = b := by
  unfold FnParam.apply
  cases hf : p.graph.find? fun e => decide (e.1 = a) with
  | none => exact absurd (List.find?_eq_none.1 hf _ h) (by simp)
  | some e => exact hu e (List.mem_of_find?_eq_some hf) (by simpa using List.find?_some hf)

/-- The parameter that has a function's values at the listed arguments. -/
def FnParam.ofValues (f : α → β) (args : List α) (rest : Elsewhere β) : FnParam α β where
  graph := args.map fun a => (a, f a)
  elsewhere := rest

/-- It has them. -/
theorem FnParam.ofValues_apply (f : α → β) (args : List α) (rest : Elsewhere β) (free : Nat → α → β) {a : α}
    (h : a ∈ args) : (FnParam.ofValues f args rest).apply free a = f a :=
  FnParam.apply_listed _ _ (List.mem_map_of_mem h) fun e he hea => by
    obtain ⟨x, -, rfl⟩ := List.mem_map.1 he
    exact congrArg f hea

end Sys2Proof
end

