-- ==== Sys2Proof/Laws/PerInstr.lean ====
section
/-! SUPPORT. One lemma for each instruction. -/

namespace Sys2Proof.Laws.ReadBack

/-- The family ReadBack: a well-formed port operation is read back from its transaction; a well-formed command row is
encoded as its command's frame, its command is well formed, and it is the row of that command. -/
def Statement (i : Instr) : Prop :=
  ∀ cfg : Config, i.wellFormed cfg = true →
    match i.toCmd? with
    | none => decode cfg (encode cfg i) = .ok i
    | some c => c.wf cfg = true ∧ encode cfg i = .wire (encodeCmd cfg c) ∧ instrOf c = .ok i

theorem crc16Init : Statement .crc16Init := fun _ _ => rfl
theorem crc16Byte (b : Byte) : Statement (.crc16Byte b) := fun _ _ => rfl
theorem crc16Final : Statement .crc16Final := fun _ _ => rfl
theorem xorInit : Statement .xorInit := fun _ _ => rfl
theorem xorByte (b : Byte) : Statement (.xorByte b) := fun _ _ => rfl
theorem rxByte (b : Byte) : Statement (.rxByte b) := fun _ _ => rfl
theorem extractBlock (r : Bytes) : Statement (.extractBlock r) := fun _ _ => rfl
theorem verifyCrc (crcfield span : Bytes) : Statement (.verifyCrc crcfield span) := fun _ _ => rfl
theorem aSet (a : Args) : Statement (.aSet a) := fun _ h => by
  simp only [Instr.wellFormed, Bool.and_eq_true, Bool.not_eq_true'] at h
  exact ⟨h.1, rfl, by simp [instrOf, h.2]⟩
theorem aQuery (a : Args) : Statement (.aQuery a) := fun _ h => by
  simp only [Instr.wellFormed, Bool.and_eq_true] at h
  exact ⟨h.1, rfl, by simp [instrOf, h.2]⟩
theorem nAddr (a : Args) : Statement (.nAddr a) := fun _ h => ⟨h, rfl, rfl⟩
theorem get (a : Args) : Statement (.get a) := fun _ h => ⟨h, rfl, rfl⟩
theorem set (a : Args) : Statement (.set a) := fun _ h => ⟨h, rfl, rfl⟩
theorem setnc (a : Args) : Statement (.setnc a) := fun _ h => ⟨h, rfl, rfl⟩
theorem form (a : Args) : Statement (.form a) := fun _ h => ⟨h, rfl, rfl⟩
theorem fmask (a : Args) : Statement (.fmask a) := fun _ h => ⟨h, rfl, rfl⟩
theorem cal (a : Args) : Statement (.cal a) := fun _ h => ⟨h, rfl, rfl⟩
theorem start (a : Args) : Statement (.start a) := fun _ h => ⟨h, rfl, rfl⟩
theorem run (a : Args) : Statement (.run a) := fun _ h => ⟨h, rfl, rfl⟩
theorem stop (a : Args) : Statement (.stop a) := fun _ h => ⟨h, rfl, rfl⟩
theorem send (a : Args) : Statement (.send a) := fun _ h => ⟨h, rfl, rfl⟩
theorem poll (a : Args) : Statement (.poll a) := fun _ h => ⟨h, rfl, rfl⟩
theorem r (a : Args) : Statement (.r a) := fun _ h => ⟨h, rfl, rfl⟩
theorem reset (a : Args) : Statement (.reset a) := fun _ h => ⟨h, rfl, rfl⟩

end Sys2Proof.Laws.ReadBack
end

