-- ==== Sys2Proof/Laws/Reset.lean ====
section
/-! SUPPORT. The address table: its canonical form at reset, and under every instruction. -/

namespace Sys2Proof.Machine

theorem tabWf_addressTable (n : Nat) (ds : List Dev) : tabWf (addressTable n ds) := by
  induction ds generalizing n with
  | nil => exact List.Pairwise.nil
  | cons d ds ih => exact tabWf_tabSet _ _ (ih (n + 1))

/-- The table at reset is in the canonical form, under every configuration. -/
theorem tabWf_reset (cfg : Config) : tabWf (State.resetWith cfg).atab := tabWf_addressTable 0 cfg.devices

/-- Where no later record has the address of an earlier one, the table of a list of records maps each address to its
record. -/
theorem tabGet_addressTable (n : Nat) (ds : List Dev) (h : (ds.map (·.address)).Nodup) (a d : Nat) :
    tabGet (addressTable n ds) a = some d ↔ ∃ v, n ≤ d ∧ ds[d - n]? = some v ∧ v.address = a := by
  induction ds generalizing n with
  | nil => simp [addressTable, tabGet]
  | cons e ds ih =>
    obtain ⟨hne, hn⟩ := List.nodup_cons.1 h
    unfold addressTable
    by_cases ha : a = e.address
    · subst ha
      rw [tabGet_tabSet_same]
      constructor
      · intro hd
        cases hd
        exact ⟨e, le_rfl, by simp, rfl⟩
      · rintro ⟨v, hle, hv, hva⟩
        rcases Nat.eq_zero_or_pos (d - n) with h0 | h0
        · congr 1; omega
        · obtain ⟨k, hk⟩ : ∃ k, d - n = k + 1 := ⟨d - n - 1, by omega⟩
          rw [hk, List.getElem?_cons_succ] at hv
          exact absurd (List.mem_map.2 ⟨v, List.mem_of_getElem? hv, hva⟩) hne
    · rw [tabGet_tabSet_other _ _ ha, ih (n + 1) hn]
      constructor
      · rintro ⟨v, hle, hv, hva⟩
        refine ⟨v, by omega, ?_, hva⟩
        rw [show d - n = (d - (n + 1)) + 1 by omega, List.getElem?_cons_succ]
        exact hv
      · rintro ⟨v, hle, hv, hva⟩
        rcases Nat.eq_zero_or_pos (d - n) with h0 | h0
        · rw [h0] at hv
          simp only [List.getElem?_cons_zero, Option.some.injEq] at hv
          subst hv
          exact absurd hva.symm ha
        · refine ⟨v, by omega, ?_, hva⟩
          rw [show d - n = (d - (n + 1)) + 1 by omega, List.getElem?_cons_succ] at hv
          exact hv

/-- Every act keeps the canonical form of the table. -/
theorem Act.tabWf_atab {s t : State} (a : Act s t) (h : tabWf s.atab) : tabWf t.atab := by
  cases a with
  | move => exact tabWf_tabSet _ _ (tabWf_tabDel _ h)
  | crc => exact h
  | xor => exact h
  | latch => exact h
  | clear => exact h
  | store => exact h
  | skip => exact h
  | restart => exact h
  | log => exact h
  | emit => exact h
  | refuse => exact h
  | wake => exact h
  | quiet => exact h
  | loud => exact h

/-- Every instruction keeps the canonical form of the table. -/
theorem exec_tabWf_atab {i : Instr} {s t : State} (h : exec i s = .next t) (hs : tabWf s.atab) : tabWf t.atab :=
  (exec_acts h).keep (fun _ _ a => a.tabWf_atab) hs

end Sys2Proof.Machine
end

