-- ==== Sys2Proof/Tests/Slice0.lean ====
section
/-! SUPPORT. Tests: ill-formed terms refused, words decoded, one step of each instruction, and a witness for the hypotheses
of each statement. Expected values are those of 95_test_vectors.md and of the rules' examples, named at each test. -/

namespace Sys2Proof.Tests

open Sys2Proof Sys2Proof.Machine

-- One thread: a thread for each test would need more memory than the check allows.
set_option Elab.async false

/-! ## Helpers -/

/-- The configuration of the vectors: a family, devices with record VD at the addresses, the keywords FMASK and CAL. -/
def cf (f : Family) (addrs : List Nat) : Config :=
  { Config.forFamily f with
    devices := addrs.map vectorDev, kwFmask := some vectorFmask, kwCal := some vectorCal }

/-- The reset state of a vector. -/
def st (f : Family) (addrs : List Nat) : State := State.resetWith (cf f addrs)

/-- A result as a state, where it is one. -/
def fin : Result → Option State
  | .next t => some t
  | .fault _ => none
  | .refused _ => none

/-- A field of the first device's record after a result. -/
def dev0 {α : Type} (r : Result) (f : Dev → α) : Option α := (fin r).bind fun t => t.devs[0]?.map f

/-- The outcomes a result has logged. -/
def outcomes (r : Result) : Option (List OutcomeCode) := (fin r).map fun t => t.outlog.map (·.outcome)

def noArgs : Args := ⟨none, [], []⟩

/-- Line arguments of a tail. -/
def lineArgs (addr : Option Nat) (f : Family) (tail : Bytes) : Args := ⟨addr, split tail f.delim, tail⟩

/-! ## Well-formedness: each check refuses an ill-formed term -/

/-- A kind that the family's table does not spell (42_tokenizer.md R161). -/
theorem test_wf_refuses_unspelled : (Instr.get noArgs).wellFormed (cf .lineComma [0]) = false := by decide

/-- An address where no prefix is enabled (42_tokenizer.md R165). -/
theorem test_wf_refuses_keyword_address :
    (Instr.stop ⟨some 1, [], []⟩).wellFormed (cf .lineKeyword [0]) = false := by decide

/-- An address in BLOCK_SPACE, whose format has none (30_encoding.md R85). -/
theorem test_wf_refuses_space_address :
    (Instr.stop ⟨some 1, [], []⟩).wellFormed (cf .blockSpace [0]) = false := by decide

/-- No id in BLOCK_COLON, whose format needs one (30_encoding.md R84). -/
theorem test_wf_refuses_colon_without_id : (Instr.stop noArgs).wellFormed (cf .blockColon [0]) = false := by decide

/-- Fields that are not the tail's (42_tokenizer.md R168). -/
theorem test_wf_refuses_other_fields :
    (Instr.aSet ⟨none, [[0x31#8]], [0x32#8]⟩).wellFormed (cf .lineComma [0]) = false := by decide

/-- A colon inside a field of BLOCK_COLON (42_tokenizer.md R167). -/
theorem test_wf_refuses_colon_field :
    (Instr.get ⟨some 1, [[0x3A#8]], [0x3A#8]⟩).wellFormed (cf .blockColon [0]) = false := by decide

/-- A terminator inside the frame (30_encoding.md R93). -/
theorem test_wf_refuses_terminator :
    (Instr.aSet ⟨none, [[0x0D#8]], [0x0D#8]⟩).wellFormed (cf .lineComma [0]) = false := by decide

/-- The set form with the query's field, and the query without it (42_tokenizer.md R171). -/
theorem test_wf_refuses_query_flag :
    (Instr.aSet ⟨none, [[0x3F#8]], [0x3F#8]⟩).wellFormed (cf .lineComma [0]) = false ∧
      (Instr.aQuery noArgs).wellFormed (cf .lineComma [0]) = false := by decide

/-- A table with an empty keyword, one with a boundary byte inside a keyword, and one with a keyword twice. -/
theorem test_plainTable_refuses :
    ¬ { cf .lineKeyword [0] with keywords := [([], .r)] }.plainTable ∧
      ¬ { cf .lineKeyword [0] with keywords := [([0x41#8, 0x20#8], .r)] }.plainTable ∧
      ¬ { cf .lineKeyword [0] with keywords := [([0x41#8], .r), ([0x61#8], .stop)] }.plainTable := by decide

/-- The launch premises refuse an XOROUT of 1, no buffer, an address bound the spec does not have, an address past the
bound, an illegal field, two devices at one address, a missing default device, a keyword twice (00_scope.md R7,
70_reset_and_hazards.md R292), an empty keyword and one that is not ASCII (30_encoding.md R86). -/
theorem test_config_wf_refuses :
    ¬ { cf .lineComma [0] with crcXorout := 1#16 }.wf ∧ ¬ { cf .lineComma [0] with rxbufMax := 0 }.wf ∧
      ¬ { cf .lineComma [0] with addrMax := 10 }.wf ∧ ¬ (cf .lineComma [99]).wf ∧
      ¬ { cf .lineComma [0] with devices := [{ vectorDev 0 with fmt := 13 }] }.wf ∧ ¬ (cf .lineComma [5, 5]).wf ∧
      ¬ { cf .lineComma [0] with unaddressedTarget := .defaultDev, defaultDev := 1 }.wf ∧
      ¬ { cf .lineKeyword [0] with keywords := [([0x41#8], .r), ([0x61#8], .stop)] }.wf ∧
      ¬ { cf .lineKeyword [0] with kwCal := some [] }.wf ∧
      ¬ { cf .lineKeyword [0] with kwCal := some [0x80#8] }.wf :=
  ⟨fun h => absurd h.1 (by decide), fun h => absurd h.2.1 (by decide), fun h => absurd h.2.2.1 (by decide),
    fun h => absurd h.2.2.2.1 (by decide), fun h => absurd h.2.2.2.1 (by decide),
    fun h => absurd h.2.2.2.2.1 (by decide), fun h => absurd h.2.2.2.2.2.1 (by decide),
    fun h => absurd h.2.2.2.2.2.2.1 (by decide), fun h => absurd h.2.2.2.2.2.2.2 (by decide),
    fun h => absurd h.2.2.2.2.2.2.2 (by decide)⟩

/-- The vectors' configurations are well formed. -/
theorem test_config_wf_accepts :
    (cf .lineComma [0]).wf ∧ (cf .lineComma [5, 6]).wf ∧ (cf .blockColon [1]).wf ∧ (cf .blockSpace [0]).wf ∧
      (cf .lineKeyword [0]).wf := by
  refine ⟨?_, ?_, ?_, ?_, ?_⟩ <;>
    exact ⟨by decide, by decide, by decide, by decide, by decide, by decide, by decide, by decide⟩

/-! ## Decoding: the bytes of each row, written out from its encoding -/

/-- The port rows (opcode_table.json): operands by name, no selector bits. -/
theorem test_decode_ports :
    decode (cf .lineComma [0]) (.port .crc16Init []) = .ok .crc16Init ∧
      decode (cf .lineComma [0]) (.port .crc16Byte [[0x41#8]]) = .ok (.crc16Byte 0x41#8) ∧
      decode (cf .lineComma [0]) (.port .crc16Final []) = .ok .crc16Final ∧
      decode (cf .lineComma [0]) (.port .xorInit []) = .ok .xorInit ∧
      decode (cf .lineComma [0]) (.port .xorByte [[0x2C#8]]) = .ok (.xorByte 0x2C#8) ∧
      decode (cf .lineComma [0]) (.port .rxByte [[0x0D#8]]) = .ok (.rxByte 0x0D#8) ∧
      decode (cf .blockColon [1]) (.port .extractBlock [[0x03#8]]) = .ok (.extractBlock [0x03#8]) ∧
      decode (cf .blockColon [1]) (.port .verifyCrc [[0x30#8], []]) = .ok (.verifyCrc [0x30#8] []) ∧
      decode (cf .lineComma [0]) (.port .crc16Byte []) = .error .portData := by decide

/-- `A,1,2.50` (W4) and `a,?` (V-T1). -/
theorem test_decode_A :
    decode (cf .lineComma [0]) (.wire [0x41#8, 0x2C#8, 0x31#8, 0x2C#8, 0x32#8, 0x2E#8, 0x35#8, 0x30#8]) =
        .ok (.aSet ⟨none, [[0x31#8], [0x32#8, 0x2E#8, 0x35#8, 0x30#8]],
          [0x31#8, 0x2C#8, 0x32#8, 0x2E#8, 0x35#8, 0x30#8]⟩) ∧
      decode (cf .lineComma [0]) (.wire [0x61#8, 0x2C#8, 0x3F#8]) = .ok (.aQuery ⟨none, [[0x3F#8]], [0x3F#8]⟩) := by
  decide

/-- `05:N,7` (W7). -/
theorem test_decode_N :
    decode (cf .lineComma [5]) (.wire [0x30#8, 0x35#8, 0x3A#8, 0x4E#8, 0x2C#8, 0x37#8]) =
      .ok (.nAddr ⟨some 5, [[0x37#8]], [0x37#8]⟩) := by decide

/-- `02 "GET:1:826D:" 03` (W8). -/
theorem test_decode_GET :
    decode (cf .blockColon [1]) (.wire [0x02#8, 0x47#8, 0x45#8, 0x54#8, 0x3A#8, 0x31#8, 0x3A#8, 0x38#8, 0x32#8, 0x36#8,
      0x44#8, 0x3A#8, 0x03#8]) = .ok (.get ⟨some 1, [], []⟩) := by decide

/-- `SET=7` (V-T9): the `=` is consumed. -/
theorem test_decode_SET :
    decode (cf .lineKeyword [0]) (.wire [0x53#8, 0x45#8, 0x54#8, 0x3D#8, 0x37#8]) =
      .ok (.set ⟨none, [[0x37#8]], [0x37#8]⟩) := by decide

/-- `02 "SETNC:1:5:50:4910:" 03` (V-K7, V-T19). -/
theorem test_decode_SETNC :
    decode (cf .blockColon [1]) (.wire [0x02#8, 0x53#8, 0x45#8, 0x54#8, 0x4E#8, 0x43#8, 0x3A#8, 0x31#8, 0x3A#8, 0x35#8,
      0x3A#8, 0x35#8, 0x30#8, 0x3A#8, 0x34#8, 0x39#8, 0x31#8, 0x30#8, 0x3A#8, 0x03#8]) =
      .ok (.setnc ⟨some 1, [[0x35#8], [0x35#8, 0x30#8]], [0x35#8, 0x3A#8, 0x35#8, 0x30#8]⟩) := by decide

/-- `FORM P U` (P4). -/
theorem test_decode_FORM :
    decode (cf .lineKeyword [0]) (.wire [0x46#8, 0x4F#8, 0x52#8, 0x4D#8, 0x20#8, 0x50#8, 0x20#8, 0x55#8]) =
      .ok (.form ⟨none, [[0x50#8], [0x55#8]], [0x50#8, 0x20#8, 0x55#8]⟩) := by decide

/-- `FMASK 0` (V-K14) and `CAL 1 2` under the vectors' spellings. -/
theorem test_decode_configured_spellings :
    decode (cf .lineKeyword [0]) (.wire [0x46#8, 0x4D#8, 0x41#8, 0x53#8, 0x4B#8, 0x20#8, 0x30#8]) =
        .ok (.fmask ⟨none, [[0x30#8]], [0x30#8]⟩) ∧
      decode (cf .lineKeyword [0]) (.wire [0x43#8, 0x41#8, 0x4C#8, 0x20#8, 0x31#8, 0x20#8, 0x32#8]) =
        .ok (.cal ⟨none, [[0x31#8], [0x32#8]], [0x31#8, 0x20#8, 0x32#8]⟩) := by decide

/-- START, RUN, STOP, POLL and SEND in LINE_KEYWORD (42_tokenizer.md R161). -/
theorem test_decode_modes :
    decode (cf .lineKeyword [0]) (.wire [0x53#8, 0x54#8, 0x41#8, 0x52#8, 0x54#8]) = .ok (.start noArgs) ∧
      decode (cf .lineKeyword [0]) (.wire [0x52#8, 0x55#8, 0x4E#8]) = .ok (.run noArgs) ∧
      decode (cf .lineKeyword [0]) (.wire [0x53#8, 0x54#8, 0x4F#8, 0x50#8]) = .ok (.stop noArgs) ∧
      decode (cf .lineKeyword [0]) (.wire [0x50#8, 0x4F#8, 0x4C#8, 0x4C#8]) = .ok (.poll noArgs) ∧
      decode (cf .lineKeyword [0]) (.wire [0x73#8, 0x65#8, 0x6E#8, 0x64#8]) = .ok (.send noArgs) := by decide

/-- `R `, `ReSeT`, `RES` (V-T12, V-T10, V-T13): `R` does not match inside `RESET`. -/
theorem test_decode_R_RESET :
    decode (cf .lineKeyword [0]) (.wire [0x52#8, 0x20#8]) = .ok (.r noArgs) ∧
      decode (cf .lineKeyword [0]) (.wire [0x52#8, 0x65#8, 0x53#8, 0x65#8, 0x54#8]) = .ok (.reset noArgs) ∧
      decode (cf .lineKeyword [0]) (.wire [0x52#8, 0x45#8, 0x53#8]) = .error .unknownCommand := by decide

/-- A frame with no id, a frame with no STX (V-F5, V-F7). -/
theorem test_decode_malformed :
    decode (cf .blockColon [1]) (.wire [0x02#8, 0x47#8, 0x45#8, 0x54#8, 0x3A#8, 0x31#8, 0x3A#8, 0x38#8, 0x32#8, 0x36#8,
        0x44#8, 0x03#8]) = .error .malformedFrame ∧
      decode (cf .blockColon [1]) (.wire [0x03#8]) = .error .malformedFrame := by decide

/-- The host's words (opcode_table.json: GET 0x474554, RESET 0x5245534554, A 0x41), and the step that runs one. -/
theorem test_table_words :
    decodeTableWord 24 0x474554 = some (.get noArgs) ∧ decodeTableWord 40 0x5245534554 = some (.reset noArgs) ∧
      decodeTableWord 8 0x41 = some (.aSet noArgs) ∧
      outcomes (step (State.reset.withFetchWord 24 0x474554)) = some [.ok] := by decide +kernel

/-! ## One step of each instruction -/

/-- R110's example. -/
theorem test_crc16Init : (fin (exec .crc16Init (st .lineComma [0]))).map (·.crcr) = some 0xFFFF#16 := by decide

/-- R111's example: 0xFFFF and `A` give 0xB915. -/
theorem test_crc16Byte :
    (fin (exec (.crc16Byte 0x41#8) { st .lineComma [0] with crcr := 0xFFFF#16 })).map (·.crcr) = some 0xB915#16 := by
  decide

/-- R111's corner case: 0x00 from 0xFFFF gives 0xE1F0. -/
theorem test_crc16Byte_zero :
    (fin (exec (.crc16Byte 0x00#8) { st .lineComma [0] with crcr := 0xFFFF#16 })).map (·.crcr) = some 0xE1F0#16 := by
  decide

/-- R113's example under both values of CRC_XOROUT; the accumulator stays. -/
theorem test_crc16Final :
    (fin (exec .crc16Final { st .lineComma [0] with crcr := 0x29B1#16 })).map (fun t => (t.crcOut, t.crcr)) =
        some (0x29B1#16, 0x29B1#16) ∧
      (fin (exec .crc16Final
        { st .lineComma [0] with crcr := 0x29B1#16, cfg := { cf .lineComma [0] with crcXorout := 0xFFFF#16 } })).map
          (·.crcOut) = some 0xD64E#16 := by decide

/-- The check value of "123456789" (R116). -/
theorem test_crc16_check_value :
    crc16 0#16 (asc ['1', '2', '3', '4', '5', '6', '7', '8', '9']) = 0x29B1#16 := by decide +kernel

theorem test_xorInit : (fin (exec .xorInit { st .lineComma [0] with xacc := 0x41#8 })).map (·.xacc) = some 0x00#8 := by
  decide

/-- R119's example. -/
theorem test_xorByte :
    (fin (exec (.xorByte 0x2C#8) { st .lineComma [0] with xacc := 0x41#8 })).map (·.xacc) = some 0x6D#8 := by decide

/-- R130's example. -/
theorem test_rxByte_data :
    (fin (exec (.rxByte 0x3F#8) { st .lineComma [0] with rxbuf := [0x41#8, 0x2C#8] })).map (·.rxbuf) =
      some [0x41#8, 0x2C#8, 0x3F#8] := by decide

/-- V-F1: the CR after `A,?` queues `"0,1\r\n"`. -/
theorem test_rxByte_frame :
    (fin (exec (.rxByte 0x0D#8) { st .lineComma [0] with rxbuf := [0x41#8, 0x2C#8, 0x3F#8] })).map
      (fun t => (t.txq, t.rxbuf)) = some ([[0x30#8, 0x2C#8, 0x31#8, 0x0D#8, 0x0A#8]], []) := by decide

/-- R139's example: the payload `GET:1` and the CRC field `826D`. -/
theorem test_extractBlock :
    ((fin (exec (.extractBlock ([0x02#8] ++ asc ['G', 'E', 'T', ':', '1', ':', '8', '2', '6', 'D', ':'] ++ [0x03#8]))
      (st .blockColon [1]))).bind (·.frame)).map (fun f => (f.payload, f.crcfield, f.span)) =
      some (asc ['G', 'E', 'T', ':', '1'], some (asc ['8', '2', '6', 'D']), asc ['G', 'E', 'T', ':', '1', ':']) := by
  decide

/-- V-S4: an empty CRC token. -/
theorem test_extractBlock_malformed :
    outcomes (exec (.extractBlock ([0x02#8] ++ asc ['G', 'E', 'T', ' '] ++ [0x03#8])) (st .blockSpace [0])) =
      some [.malformedFrame] := by decide

/-- V-C2: the lowercase field passes, and no outcome is logged. -/
theorem test_verifyCrc :
    outcomes (exec (.verifyCrc (asc ['8', '2', '6', 'd']) (asc ['G', 'E', 'T', ':', '1', ':'])) (st .blockColon [1])) =
      some [] := by decide +kernel

/-- V-C4: three digits. -/
theorem test_verifyCrc_mismatch :
    outcomes (exec (.verifyCrc (asc ['8', '2', '6']) (asc ['G', 'E', 'T', ':', '1', ':'])) (st .blockColon [1])) =
      some [.checksumMismatch] := by decide

/-- W6: `A,13,5`. -/
theorem test_aSet :
    dev0 (exec (.aSet (lineArgs none .lineComma (asc ['1', '3', ',', '5']))) (st .lineComma [0]))
      (fun v => (v.fmt, v.interval)) = some (0, 500) := by decide

/-- W6: `A,12,9999` at both bounds. -/
theorem test_aSet_bounds :
    dev0 (exec (.aSet (lineArgs none .lineComma (asc ['1', '2', ',', '9', '9', '9', '9']))) (st .lineComma [0]))
      (fun v => (v.fmt, v.interval)) = some (12, 999900) := by decide

/-- V-K3: `"0,1\r\n"`. -/
theorem test_aQuery :
    (fin (exec (.aQuery (lineArgs none .lineComma [0x3F#8])) (st .lineComma [0]))).map (·.txq) =
      some [[0x30#8, 0x2C#8, 0x31#8, 0x0D#8, 0x0A#8]] := by decide

/-- W7: `05:N,7`. -/
theorem test_nAddr :
    (fin (exec (.nAddr (lineArgs (some 5) .lineComma [0x37#8])) (st .lineComma [5]))).map
      (fun t => (t.atab, t.devs.map (·.address), t.wake)) = some ([(7, 0)], [7], false) := by decide

/-- P2: `06:N,5` to an occupied address. -/
theorem test_nAddr_occupied :
    (fin (exec (.nAddr (lineArgs (some 6) .lineComma [0x35#8])) (st .lineComma [5, 6]))).map
      (fun t => (t.atab, t.outlog.map (·.outcome))) = some ([(5, 0), (6, 1)], [.outOfRange]) := by decide

/-- V-C1: one reply, no wake-up. -/
theorem test_get :
    (fin (exec (.get ⟨some 1, [], []⟩) (st .blockColon [1]))).map (fun t => (t.txq.length, t.wake)) =
      some (1, false) := by decide

/-- V-K6: `SET:1:5:101`. -/
theorem test_set :
    dev0 (exec (.set ⟨some 1, [[0x35#8], asc ['1', '0', '1']], []⟩) (st .blockColon [1]))
      (fun v => (v.interval, v.rhThreshold)) = some (500, 50) := by decide

/-- V-K9: `SET=7`, the second field missing. -/
theorem test_set_missing :
    dev0 (exec (.set (lineArgs none .lineKeyword [0x37#8])) (st .lineKeyword [0]))
      (fun v => (v.interval, v.rhThreshold)) = some (700, 0) := by decide

/-- V-K7: `SETNC:1:5:50`. -/
theorem test_setnc :
    (fin (exec (.setnc ⟨some 1, [[0x35#8], asc ['5', '0']], []⟩) (st .blockColon [1]))).map
      (fun t => (t.devs.map (·.interval), t.wake, t.outlog.map (·.kind))) = some ([500], true, [some .setnc]) := by
  decide

/-- A configuration that gives `compile_format` the values of V-K10 and of one text that compiles. -/
def formCfg : Config :=
  { cf .lineKeyword [0] with
    compileFormatFn := ⟨[([], none), (asc ['P', ' ', 'U'], some ⟨[0x31#8]⟩)], .free 0⟩ }

/-- R226's example: the program is what `compile_format` gives for the raw tail. -/
theorem test_form :
    dev0 (exec (.form (lineArgs none .lineKeyword (asc ['P', ' ', 'U']))) (State.resetWith formCfg)) (·.formatProgram) =
      some ⟨[0x31#8]⟩ := by decide

/-- V-K10: the empty text does not compile. -/
theorem test_form_none :
    (fin (exec (.form noArgs) (State.resetWith formCfg))).map
      (fun t => (t.devs.map (·.formatProgram), t.outlog.map (·.outcome))) = some ([⟨[]⟩], [.outOfRange]) := by decide

/-- V-K12: 65535 is accepted. -/
theorem test_fmask :
    dev0 (exec (.fmask (lineArgs none .lineKeyword (asc ['6', '5', '5', '3', '5']))) (st .lineKeyword [0]))
      (·.fieldMask) = some 0xFFFF := by decide

/-- V-K13: 65537 is rejected whole. -/
theorem test_fmask_reserved :
    dev0 (exec (.fmask (lineArgs none .lineKeyword (asc ['6', '5', '5', '3', '7']))) (st .lineKeyword [0]))
      (·.fieldMask) = some 3 := by decide

/-- R228's example. -/
theorem test_cal :
    dev0 (exec (.cal (lineArgs none .lineKeyword (asc ['1', '2', '3', '4', ' ', '2', ' ', '7', '.', '5'])))
      (st .lineKeyword [0])) (·.calibration) = some [(2, asc ['7', '.', '5'])] := by decide

/-- V-K17: a wrong PIN. -/
theorem test_cal_pin :
    outcomes (exec (.cal (lineArgs none .lineKeyword (asc ['1', '1', '1', '1', ' ', '3', ' ', '9'])))
      (st .lineKeyword [0])) = some [.outOfRange] := by decide

/-- V-K19 to V-K22. -/
theorem test_start : dev0 (exec (.start ⟨some 1, [], []⟩) (st .blockColon [1])) (·.mode) = some .continuous := by decide

theorem test_run : dev0 (exec (.run ⟨some 1, [], []⟩) (st .blockColon [1])) (·.mode) = some .continuous := by decide

/-- STOP in STOPPED still wakes. -/
theorem test_stop :
    (fin (exec (.stop ⟨some 1, [], []⟩) (st .blockColon [1]))).map (fun t => (t.devs.map (·.mode), t.wake)) =
      some ([.stopped], true) := by decide

theorem test_poll : dev0 (exec (.poll ⟨some 1, [], []⟩) (st .blockColon [1])) (·.mode) = some .polled := by decide

/-- V-K23: the mode stays, one reply, a wake-up. -/
theorem test_send :
    (fin (exec (.send ⟨some 1, [], []⟩) (st .blockColon [1]))).map
      (fun t => (t.devs.map (·.mode), t.wake, t.txq.length)) = some ([.stopped], true, 1) := by decide

/-- V-K25 and V-D7. -/
theorem test_r :
    (fin (exec (.r noArgs) (st .lineKeyword [0]))).map (fun t => (t.refused, t.txq, t.outlog.map (·.outcome))) =
      some (true, [], [.refused]) := by decide

theorem test_reset :
    (fin (exec (.reset noArgs) (st .lineKeyword [0]))).map (fun t => (t.refused, t.wake, t.outlog.map (·.outcome))) =
      some (true, false, [.refused]) := by decide

/-! ## Witnesses: the hypotheses of each statement are met -/

/-- Bytes received. -/
def withLine (s : State) (line : Bytes) : State := { s with rxbuf := line }

theorem witness_CrcDetectsEveryOneByteChange : (0x31#8 : Byte) ≠ 0x32#8 := by decide

theorem witness_XorPortsComputeChecksum : [0x41#8, 0x2C#8].Perm [0x2C#8, 0x41#8] := by decide

/-- The smallest frames: one byte of CRC field, STX at index 0. -/
theorem witness_ExtractBlockCutsByIndex :
    let r := [0x02#8, 0x3A#8, 0x30#8, 0x3A#8, 0x03#8]
    let q := [0x02#8, 0x20#8, 0x30#8, 0x03#8]
    ((st .blockColon [1]).cfg.family = .blockColon ∧ FirstAt r Ascii.stx 0 0 ∧ FirstAt r Ascii.etx 1 4 ∧
        LastBetween r Ascii.colon 0 4 3 ∧ LastBetween r Ascii.colon 0 3 1 ∧ 1 + 1 < 3) ∧
      (st .blockSpace [0]).cfg.family = .blockSpace ∧ FirstAt q Ascii.stx 0 0 ∧ FirstAt q Ascii.etx 1 3 ∧
        LastBetween q Ascii.space 0 3 1 ∧ 1 + 1 < 3 :=
  ⟨⟨by decide, by decide, by decide, by decide, by decide, by decide⟩, by decide, by decide, by decide, by decide,
    by decide⟩

/-- An index at which a list holds a byte is within it. -/
theorem lt_of_getElem? {r : Bytes} {i : Nat} {b : Byte} (h : r[i]? = some b) : i < r.length :=
  (List.getElem?_eq_some_iff.1 h).1

/-- No STX, and an empty CRC field, in each family. -/
theorem witness_ExtractBlockMalformed :
    ((st .blockColon [1]).cfg.family = .blockColon ∧ (st .blockSpace [0]).cfg.family = .blockSpace) ∧
      (∀ i, ¬ FirstAt [0x03#8] Ascii.stx 0 i) ∧
      (¬ ∃ i e c1 c2, FirstAt [0x02#8, 0x3A#8, 0x3A#8, 0x03#8] Ascii.stx 0 i ∧
        FirstAt [0x02#8, 0x3A#8, 0x3A#8, 0x03#8] Ascii.etx (i + 1) e ∧
        LastBetween [0x02#8, 0x3A#8, 0x3A#8, 0x03#8] Ascii.colon i e c1 ∧
        LastBetween [0x02#8, 0x3A#8, 0x3A#8, 0x03#8] Ascii.colon i c1 c2 ∧ c2 + 1 < c1) ∧
      ¬ ∃ i e c, FirstAt [0x02#8, 0x20#8, 0x03#8] Ascii.stx 0 i ∧ FirstAt [0x02#8, 0x20#8, 0x03#8] Ascii.etx (i + 1) e ∧
        LastBetween [0x02#8, 0x20#8, 0x03#8] Ascii.space i e c ∧ c + 1 < e := by
  refine ⟨by decide, fun i h => ?_, ?_, ?_⟩
  · have hi := lt_of_getElem? h.2.1
    obtain rfl : i = 0 := by simpa using hi
    exact absurd h.2.1 (by decide)
  · rintro ⟨i, e, c1, c2, -, h2, h3, h4, h5⟩
    have he := lt_of_getElem? h2.2.1
    have hc1 := h3.2.1
    have hc2 := h4.1
    simp only [List.length_cons, List.length_nil] at he
    omega
  · rintro ⟨i, e, c, -, h2, h3, h4⟩
    have he := lt_of_getElem? h2.2.1
    have hc := h3.1
    simp only [List.length_cons, List.length_nil] at he
    omega

theorem witness_ExtractBlockStopsInLineFamilies :
    (st .lineComma [0]).cfg.family = .lineComma ∧ (st .lineKeyword [0]).cfg.family = .lineKeyword := by decide

/-- V-C1, V-C3, V-C4: one field for each clause. -/
theorem witness_VerifyCrcAcceptsOrRaises :
    parseHex4 (asc ['8', '2', '6', 'D']) = some (crc16 0#16 (asc ['G', 'E', 'T', ':', '1', ':'])) ∧
      (parseHex4 (asc ['8', '2', '6', 'E']) = some 0x826E#16 ∧
        (0x826E#16 : Half) ≠ crc16 0#16 (asc ['G', 'E', 'T', ':', '1', ':'])) ∧
      parseHex4 (asc ['8', '2', '6']) = none := by decide +kernel

theorem witness_ReplyFramingAndReadBack :
    (st .lineComma [0]).cfg.family = .lineComma ∧ (st .blockColon [1]).cfg.family = .blockColon ∧
      (st .blockSpace [0]).cfg.family = .blockSpace ∧ Ascii.etx ∉ asc ['Q', ':', ' '] := by decide

/-- A well-formed instruction in each family. -/
theorem witness_DecodeOfEncode :
    ((cf .lineComma [0]).plainTable ∧ (Instr.aQuery ⟨some 7, [[0x3F#8]], [0x3F#8]⟩).wellFormed (cf .lineComma [0])) ∧
      ((cf .blockColon [1]).plainTable ∧ (Instr.set ⟨some 1, [[0x35#8], []], [0x35#8, 0x3A#8]⟩).wellFormed
        (cf .blockColon [1])) ∧
      ((cf .blockSpace [0]).plainTable ∧ (Instr.get noArgs).wellFormed (cf .blockSpace [0])) ∧
      (cf .lineKeyword [0]).plainTable ∧ (Instr.cal noArgs).wellFormed (cf .lineKeyword [0]) := by decide

/-- `ReSeT` and `RESET`: an answer, none, two spellings of one string, and a well-formed configuration. -/
theorem witness_KeywordMatchIsLongestInAnyCase :
    (matchKeyword (cf .lineKeyword [0]) (asc ['R', 'e', 'S', 'e', 'T']) =
        some (asc ['R', 'E', 'S', 'E', 'T'], .reset) ∧
      matchKeyword (cf .lineKeyword [0]) (asc ['R', 'E', 'S']) = none ∧
      foldBytes (asc ['R', 'e', 'S', 'e', 'T']) = foldBytes (asc ['R', 'E', 'S', 'E', 'T'])) ∧
      (cf .lineKeyword [0]).wf := ⟨by decide, test_config_wf_accepts.2.2.2.2⟩

/-- Each clause: a string of fields; a tail at the end, after `?` (V-T2) and after `=` (V-T9); a payload with a keyword and
one without (V-T4); a `BLOCK_COLON` payload (V-T19) and one whose keyword is not its whole first field (V-T17); a line with a
prefix, with none, and digits without a colon (V-T6, V-T1, V-T5). -/
theorem witness_SplitCutsAtEveryDelimiter :
    (asc ['1', ',', ',', '5'] ≠ [] ∧ [] ∈ split (asc ['1', ',', ',', '5']) Ascii.comma) ∧
      ((asc ['A']).length ≤ 1 ∧ (asc ['A', '?'])[1]? = some 0x3F#8 ∧ (asc ['S', 'E', 'T', '=', '7'])[3]? = some 0x3D#8) ∧
      (matchKeyword (cf .lineComma [0]) (asc ['A', '?']) = some (asc ['A'], .autosend) ∧
        matchKeyword (cf .lineComma [0]) (asc ['A', 'X', ',', '1']) = none) ∧
      (split (asc ['S', 'E', 'T', 'N', 'C', ':', '1', ':', '5']) 0x3A#8 =
          asc ['S', 'E', 'T', 'N', 'C'] :: [0x31#8] :: [[0x35#8]] ∧
        matchKeyword (cf .blockColon [1]) (asc ['S', 'E', 'T', 'N', 'C']) = some (asc ['S', 'E', 'T', 'N', 'C'], .setnc) ∧
        matchKeyword (cf .blockColon [1]) (asc ['G', 'E', 'T', 'X']) = none) ∧
      ((cf .lineComma [7]).family.isLine = true ∧ (cf .lineComma [7]).addrPrefixEn = true ∧
        asc ['0', '0', '7', ':', 'A'] = asc ['0', '0', '7'] ++ 0x3A#8 :: asc ['A'] ∧
        (cf .lineKeyword [0]).addrPrefixEn = false ∧ 0x3A#8 ∉ asc ['1', '2', 'A', ',', '1']) := by decide

/-- V-T2 and V-T9: the `?` is kept, the `=` is consumed. -/
theorem test_tailOf : tailOf (asc ['A', '?']) 1 = [0x3F#8] ∧ tailOf (asc ['S', 'E', 'T', '=', '7']) 3 = [0x37#8] := by
  decide

/-- V-K1, V-K2 and R221's corner cases. -/
theorem test_renderInterval :
    renderInterval 250 = asc ['2', '.', '5'] ∧ renderInterval 205 = asc ['2', '.', '0', '5'] ∧
      renderInterval 0 = asc ['0'] ∧ renderInterval 999900 = asc ['9', '9', '9', '9'] := by decide +kernel

/-- R89 and R90's examples: a field read (its third fraction digit dropped), one unparsable and one missing, under both
policies. -/
theorem witness_RenderedNumbersReadBack :
    (dec 0).head? = some 0x30#8 ∧ parseUint (asc ['0', '7']) = some 7 ∧
      parseFix2 (asc ['2', '.', '5', '0', '5']) = some 250 ∧ parseFix2 (asc ['2', '.']) = some 200 ∧
      (let fields := [asc ['2', '.', '5', '0', '5'], asc ['.', '5']]
       fields[0]? = some (asc ['2', '.', '5', '0', '5']) ∧ fields[1]? = some (asc ['.', '5']) ∧
        parseFix2 (asc ['.', '5']) = none ∧ fields.length ≤ 2) ∧
      (cf .lineComma [0]).missingFieldPolicy = .useDefault ∧
      ({ cf .lineComma [0] with missingFieldPolicy := .keep } : Config).missingFieldPolicy = .keep := by decide

theorem witness_CommandWithoutTargetOnlyLogs :
    (Instr.get ⟨some 2, [], []⟩).toCmd? = some ⟨.get, ⟨some 2, [], []⟩⟩ ∧ targets (st .blockColon [1]) (some 2) = [] := by
  decide

/-- ADDR0 with a device at 0 and without (V-D1), BROADCAST in ascending order, DEFAULT_DEV, and the addresses at and past
the bound. -/
theorem witness_TargetsOfAnAddress :
    ((none : Option Nat).getD 0 = 0 ∧ (st .lineComma [0]).cfg.unaddressedTarget = .addr0 ∧
        targets (st .lineComma [0]) none = [0] ∧ targets (st .lineComma [5]) none = []) ∧
      (({ cf .lineComma [6, 5] with unaddressedTarget := .broadcast }).unaddressedTarget = .broadcast ∧
        targets (State.resetWith { cf .lineComma [6, 5] with unaddressedTarget := .broadcast }) none = [1, 0]) ∧
      ({ cf .lineComma [5, 6] with unaddressedTarget := .defaultDev }).unaddressedTarget = .defaultDev ∧
      targets (st .lineComma [98]) (some 98) = [0] ∧ targets (st .lineComma [98]) (some 99) = [] ∧
      (some 98).getD 0 ≠ 0 := by decide

/-- The invariant holds of the vectors' reset states. -/
theorem inv_st {f : Family} {addrs : List Nat} (h : (cf f addrs).wf)
    (hl : ∀ d ∈ (st f addrs).devs, d.legal (cf f addrs)) (ht : ∀ d ∈ (st f addrs).devs, d.lastTx = none) :
    (st f addrs).Inv where
  cfg := h
  rx := ⟨Nat.zero_le _, by simp [st, State.resetWith], by simp [st, State.resetWith]⟩
  table := by
    refine ⟨tabWf_reset _, fun a d => ?_⟩
    have := tabGet_addressTable 0 (cf f addrs).devices h.2.2.2.2.1 a d
    simp only [Nat.zero_le, true_and, Nat.sub_zero] at this
    refine this.trans ⟨?_, ?_⟩
    · rintro ⟨v, hv, hva⟩
      refine ⟨Dev.atReset (cf f addrs) v, ?_, hva⟩
      simp [st, State.resetWith, hv]
    · rintro ⟨v, hv, hva⟩
      simp only [st, State.resetWith, List.getElem?_map, Option.map_eq_some_iff] at hv
      obtain ⟨w, hw, rfl⟩ := hv
      exact ⟨w, hw, hva⟩
  devs := ⟨by simp [st, State.resetWith], hl⟩
  sender := ⟨fun _ => rfl, by simp [st, State.resetWith], fun v hv t htt => by rw [ht v hv] at htt; cases htt⟩

theorem witness_TargetsAreGoodUnderInvariant :
    (st .lineComma [5, 6]).Inv ∧ targets (st .lineComma [5, 6]) (some 6) ≠ [] :=
  ⟨inv_st test_config_wf_accepts.2.1 (by decide) (by decide), by decide⟩

/-- Two targets of a broadcast, and one target in each family. -/
theorem witness_GoodTargets :
    GoodTargets (State.resetWith { cf .lineComma [5, 6] with unaddressedTarget := .broadcast }) none ∧
      GoodTargets (st .lineComma [0]) none ∧ GoodTargets (st .blockColon [1]) (some 1) ∧
      GoodTargets (st .blockSpace [0]) none ∧ GoodTargets (st .lineKeyword [0]) none := by decide

theorem witness_ASetWritesFormatAndInterval : GoodTargets (st .lineComma [0]) none := by decide

theorem witness_AQueryRepliesFormatAndInterval : GoodTargets (st .lineComma [5]) (some 5) := by decide

/-- W7 and the bound: the new addresses 7 and 98. -/
theorem witness_NAddrMovesTheDevice :
    let s := st .lineComma [5]
    (targets s (some 5) = [0] ∧ s.devs[0]? = some (Dev.atReset s.cfg (vectorDev 5))) ∧
      (param s.cfg s.cfg.numericDefault.address [asc ['9', '8']] 0 parseUint = .value 98 ∧ 98 ≤ s.cfg.addrMax ∧
        98 ≠ (vectorDev 5).address ∧ tabGet s.atab 98 = none) := by decide

/-- Two targets; past 98; an occupied address. -/
theorem witness_NAddrRejects :
    targets (State.resetWith { cf .lineComma [5, 6] with unaddressedTarget := .broadcast }) none = [0, 1] ∧
      (let s := st .lineComma [5, 6]
       targets s (some 6) = [1] ∧ s.devs[1]? = some (Dev.atReset s.cfg (vectorDev 6)) ∧
        param s.cfg s.cfg.numericDefault.address [asc ['9', '9']] 0 parseUint = .value 99 ∧
        param s.cfg s.cfg.numericDefault.address [[0x35#8]] 0 parseUint = .value 5 ∧ tabGet s.atab 5 ≠ none) := by
  decide

/-- V-K4; and a field kept under KEEP. -/
theorem witness_NAddrWithoutMove :
    let s := st .lineComma [5]
    (targets s (some 5) = [0] ∧ s.devs[0]? = some (Dev.atReset s.cfg (vectorDev 5))) ∧
      (param s.cfg s.cfg.numericDefault.address [[0x35#8]] 0 parseUint = .value (vectorDev 5).address ∧
        (vectorDev 5).address ≤ s.cfg.addrMax) ∧
      param { s.cfg with missingFieldPolicy := .keep } s.cfg.numericDefault.address [] 0 parseUint = .keep := by decide

theorem witness_GetRepliesQueryPayload : GoodTargets (st .blockColon [1]) (some 1) := by decide

theorem witness_SetAndSetncApplyTheSchema : GoodTargets (st .blockSpace [0]) none := by decide

/-- An entry with siblings, of each kind. Each numeric field at its last legal value and past it; an interval kept; the
entry's own bound 60 met and passed; a mask of the valid bits and one past them. -/
theorem witness_SchemaFieldIsIndependent :
    (∀ e ∈ [SchemaEntry.num .fmt .uint none] ++ [.text .pin, .mask], ∀ g b, e ≠ .num .interval g b) ∧
      (.text .comm ∉ [SchemaEntry.num .fmt .uint none] ++ [.text .pin, .mask] ∧
        .mask ∉ [SchemaEntry.num .fmt .uint none] ++ [.text .pin]) ∧
      (let c := cf .lineKeyword [0]
       param c 0 [asc ['9', '9', '9', '9', '.', '0', '1']] 0 NumForm.fix2.parse = .value 999901 ∧
        param c 0 [asc ['6', '0']] 0 NumForm.uint.parse = .value 60 ∧
        param c 0 [asc ['6', '1']] 0 NumForm.uint.parse = .value 61 ∧
        param c 0 [asc ['1', '2']] 0 NumForm.uint.parse = .value 12 ∧
        param c 0 [asc ['1', '3']] 0 NumForm.uint.parse = .value 13 ∧
        param c 0 [asc ['1']] 0 NumForm.uint.parse = .value 1 ∧ param c 0 [asc ['2']] 0 NumForm.uint.parse = .value 2 ∧
        param { c with missingFieldPolicy := .keep } 0 [] 0 NumForm.fix2.parse = .keep ∧
        param c 0 [asc ['6', '5', '5', '3', '5']] 0 parseUint = .value 65535 ∧ 65535 < 2 ^ c.fieldMaskWidth ∧
        param c 0 [asc ['6', '5', '5', '3', '6']] 0 parseUint = .value 65536 ∧ (65536).testBit 16 = true ∧
        c.fieldMaskValid.testBit 16 = false) := by
  refine ⟨fun e he g b => ?_, by decide, by decide +kernel⟩
  simp only [List.cons_append, List.nil_append, List.mem_cons, List.not_mem_nil, or_false] at he
  rcases he with rfl | rfl | rfl <;> simp

theorem witness_FormReplacesTheProgram : GoodTargets (st .lineKeyword [0]) none := by decide

/-- V-K12 at the edge of the valid bits (65535 and 65536), V-K16 at the width, and KEEP. -/
theorem witness_FmaskIsAllOrNothing :
    let s := st .lineKeyword [0]
    GoodTargets s none ∧
      (param s.cfg s.cfg.numericDefault.mask [asc ['6', '5', '5', '3', '5']] 0 parseUint = .value 65535 ∧
        65535 < 2 ^ s.cfg.fieldMaskWidth ∧ s.cfg.fieldMaskValid = 65535) ∧
      (param s.cfg s.cfg.numericDefault.mask [asc ['6', '5', '5', '3', '6']] 0 parseUint = .value 65536 ∧
        (65536).testBit 16 = true ∧ s.cfg.fieldMaskValid.testBit 16 = false) ∧
      2 ^ ({ s.cfg with fieldMaskWidth := 16 } : Config).fieldMaskWidth ≤ 65536 ∧
      param { s.cfg with missingFieldPolicy := .keep } 0 [] 0 parseUint = .keep := by decide +kernel

/-- A point and a value; no value; a point kept under KEEP. -/
theorem witness_CalWritesThePointBehindThePin :
    let s := st .lineKeyword [0]
    let fields := split (asc ['1', '2', '3', '4', ' ', '2', ' ', '7']) Ascii.space
    GoodTargets s none ∧
      (param s.cfg s.cfg.numericDefault.calPoint fields 1 parseUint = .value 2 ∧ fields[2]? = some [0x37#8]) ∧
      ([] : List Bytes)[2]? = none ∧ param { s.cfg with missingFieldPolicy := .keep } 0 [] 1 parseUint = .keep := by decide

theorem witness_ModeCommandsSetModeAndWake : GoodTargets (st .lineKeyword [0]) none := by decide

theorem witness_SendRepliesOneOutputAndWakes : GoodTargets (st .blockColon [1]) (some 1) := by decide

theorem witness_RAndResetAreRefused :
    targets (st .lineKeyword [0]) none ≠ [] ∧ classOf (cf .lineKeyword [0]) .r = none ∧
      classOf (cf .lineKeyword [0]) .reset = none := by decide

/-- A configuration whose table holds the keyword `Q`, of the query class, with a line check or none. -/
def queryCfg (f : Family) (chk : Option LineCheck) : Config :=
  { cf f [0] with
    keywords := [([0x51#8], .configured 0)], classes := [(.r, .maskClass), (.configured 0, .queryClass)]
    addrPrefixEn := false, lineCheck := chk }

/-- A check that passes the line `RQ` and strips it to `Q`. -/
def stripR : LineCheck := ⟨⟨[(asc ['R', 'Q'], true)], .const false⟩, ⟨[(asc ['R', 'Q'], asc ['Q'])], .const []⟩⟩

/-- R, RESET; a configured keyword in an unchecked line, in a checked block with the right CRC, and in a line that passes its
check. -/
theorem witness_ConfiguredCommandsFollowTheirClass :
    GoodTargets (State.resetWith (queryCfg .lineKeyword none)) none ∧
      (let s := withLine (State.resetWith (queryCfg .lineKeyword none)) (asc ['Q'])
       CompletesFrame s 0x0D#8 ∧ (∃ f, locateFrame s.cfg (pendingFrame s 0x0D#8) = some f ∧ GoodTargets s f.addr ∧
        tokenize s.cfg f.addr f.payload = some ⟨.configured 0, noArgs⟩) ∧ s.cfg.family.isLine = true ∧
        s.cfg.lineCheck = none) ∧
      (let s := withLine (State.resetWith (queryCfg .blockSpace none))
        ([0x02#8, 0x51#8, 0x20#8] ++ asc ['0', '4', 'E', '3'])
       CompletesFrame s 0x03#8 ∧ (∃ f, locateFrame s.cfg (pendingFrame s 0x03#8) = some f ∧ GoodTargets s f.addr ∧
        tokenize s.cfg f.addr f.payload = some ⟨.configured 0, noArgs⟩ ∧ CrcRight s.cfg f) ∧
        s.cfg.family.isLine = false ∧ ∃ d v, d ∈ targets s none ∧ s.devs[d]? = some v ∧ v.chkEn = true) ∧
      (let s := withLine (State.resetWith (queryCfg .lineComma (some stripR))) (asc ['R', 'Q'])
       CompletesFrame s 0x0D#8 ∧ (∃ f, locateFrame s.cfg (pendingFrame s 0x0D#8) = some f ∧ GoodTargets s f.addr ∧
        tokenize s.cfg f.addr (stripR.stripped f.payload) = some ⟨.configured 0, noArgs⟩) ∧
        stripR.passes s.rxbuf = true ∧ s.cfg.lineCheck = some stripR ∧
        ∃ d v, d ∈ targets s none ∧ s.devs[d]? = some v ∧ v.chkEn = true) :=
  ⟨by decide, ⟨by decide, ⟨_, rfl, by decide, by decide⟩, by decide, by decide⟩,
    ⟨by decide, ⟨_, rfl, by decide, by decide, ⟨_, rfl, by decide +kernel⟩⟩, by decide,
      ⟨0, Dev.atReset (queryCfg .blockSpace none) (vectorDev 0), by decide⟩⟩,
    ⟨by decide, ⟨_, rfl, by decide, by decide⟩, by decide, by decide,
      ⟨0, Dev.atReset (queryCfg .lineComma (some stripR)) (vectorDev 0), by decide⟩⟩⟩

/-- Each of the six commands gives a next state, and so does START where WAKE is set. -/
theorem witness_WakeIsWrittenOnlyByItsCommands :
    (∃ t, exec (.nAddr noArgs) (st .lineComma [0]) = .next t) ∧ (∃ t, exec (.get noArgs) (st .lineComma [0]) = .next t) ∧
      (∃ t, exec (.form noArgs) (st .lineComma [0]) = .next t) ∧
      (∃ t, exec (.fmask noArgs) (st .lineComma [0]) = .next t) ∧
      (∃ t, exec (.cal noArgs) (st .lineComma [0]) = .next t) ∧
      (∃ t, exec (.aQuery noArgs) (st .lineComma [0]) = .next t) ∧
      ∃ t, exec (.start noArgs) { st .lineComma [0] with wake := true } = .next t :=
  ⟨⟨_, rfl⟩, ⟨_, rfl⟩, ⟨_, rfl⟩, ⟨_, rfl⟩, ⟨_, rfl⟩, ⟨_, rfl⟩, ⟨_, rfl⟩⟩

/-- A byte dropped; a byte stored at the last free place. -/
theorem witness_RxByteStoresData :
    let s := State.resetWith { cf .lineComma [0] with rxbufMax := 1 }
    s.shutdown = false ∧ s.cfg.family.isTerminator 0x41#8 = false ∧ ({ s with rxdisc := true } : State).rxdisc = true ∧
      s.rxdisc = false ∧ s.rxbuf.length ≠ s.cfg.rxbufMax := by decide

theorem witness_RxByteOverflows :
    let s := withLine (State.resetWith { cf .lineComma [0] with rxbufMax := 1 }) [0x41#8]
    s.shutdown = false ∧ s.cfg.family.isTerminator 0x41#8 = false ∧ s.rxdisc = false ∧
      s.rxbuf.length = s.cfg.rxbufMax ∧ s.cfg.overflowResync = .skipToTerminator ∧
      ({ s.cfg with overflowResync := .restart } : Config).overflowResync = .restart := by decide

theorem witness_TerminatorWithoutFrame :
    let s := st .lineComma [0]
    s.shutdown = false ∧ s.cfg.family.isTerminator 0x0A#8 = true ∧ ({ s with rxdisc := true } : State).rxdisc = true ∧
      s.rxdisc = false ∧ s.cfg.family.isLine = true ∧ s.rxbuf = [] := by decide

theorem witness_EveryReceiveStepCompletes :
    CompletesFrame (withLine (st .lineComma [0]) [0x41#8]) 0x0D#8 ∧ CompletesFrame (st .blockColon [1]) 0x03#8 := by decide

/-- A frame received up to its ETX; no frame can be cut in either family (V-F7); one is cut whose id is
missing (V-F5), is not decimal (V-T15), is decimal (V-T14). -/
theorem witness_MalformedFrameOnlyLogs :
    (CompletesFrame (st .blockColon [1]) 0x03#8 ∧ (st .blockColon [1]).cfg.family = .blockColon ∧
        locateFrame (cf .blockColon [1]) (pendingFrame (st .blockColon [1]) 0x03#8) = none) ∧
      (CompletesFrame (st .blockSpace [0]) 0x03#8 ∧ (st .blockSpace [0]).cfg.family = .blockSpace ∧
        ∀ i, ¬ FirstAt (pendingFrame (st .blockSpace [0]) 0x03#8) Ascii.stx 0 i) ∧
      (∀ i, ¬ FirstAt (pendingFrame (st .blockColon [1]) 0x03#8) Ascii.stx 0 i) ∧
      (let s := withLine (st .blockColon [1]) ([0x02#8] ++ asc ['G', 'E', 'T', ':', '1', ':', '8', '2', '6', 'D'])
       let r := pendingFrame s 0x03#8
       CompletesFrame s 0x03#8 ∧ (FirstAt r Ascii.stx 0 0 ∧ FirstAt r Ascii.etx 1 11 ∧ LastBetween r Ascii.colon 0 11 6 ∧
        LastBetween r Ascii.colon 0 6 4 ∧ 4 + 1 < 6) ∧ slice r 1 4 = asc ['G', 'E', 'T']) ∧
      (let s := withLine (st .blockColon [1]) ([0x02#8] ++ asc ['G', ':', 'x', ':', '8', ':'])
       let r := pendingFrame s 0x03#8
       CompletesFrame s 0x03#8 ∧ (FirstAt r Ascii.stx 0 0 ∧ FirstAt r Ascii.etx 1 7 ∧ LastBetween r Ascii.colon 0 7 6 ∧
        LastBetween r Ascii.colon 0 6 4 ∧ 4 + 1 < 6) ∧ slice r 1 4 = asc ['G', ':', 'x']) ∧
      (let s := withLine (st .blockColon [1]) ([0x02#8] ++ asc ['G', ':', '1', ':', '8', ':'])
       let r := pendingFrame s 0x03#8
       CompletesFrame s 0x03#8 ∧ (FirstAt r Ascii.stx 0 0 ∧ FirstAt r Ascii.etx 1 7 ∧ LastBetween r Ascii.colon 0 7 6 ∧
        LastBetween r Ascii.colon 0 6 4 ∧ 4 + 1 < 6) ∧ slice r 1 4 = asc ['G', ':', '1']) := by
  have hno : ∀ i, ¬ FirstAt [0x03#8] Ascii.stx 0 i := fun i h => by
    have hi := lt_of_getElem? h.2.1
    obtain rfl : i = 0 := by simpa using hi
    exact absurd h.2.1 (by decide)
  exact ⟨by decide, ⟨by decide, by decide, hno⟩, hno, by decide, by decide, by decide⟩

/-- V-T7. -/
theorem witness_AddressOutOfRangeComesFirst :
    let s := withLine (st .lineComma [0]) (asc ['9', '9', ':', 'A', ',', '?'])
    CompletesFrame s 0x0D#8 ∧
      locateFrame s.cfg (pendingFrame s 0x0D#8) =
        some { family := .lineComma, addr := some 99, payload := asc ['A', ',', '?'], crcfield := none, span := [], chkvalid := true } ∧
      targets s (some 99) = [] := by decide

/-- W8: the frame `02 "GET:1:826E:" 03`, short of its ETX. -/
def badGet : State := withLine (st .blockColon [1]) ([0x02#8] ++ asc ['G', 'E', 'T', ':', '1', ':', '8', '2', '6', 'E', ':'])

/-- The good frame of W8. -/
def goodGet : State := withLine (st .blockColon [1]) ([0x02#8] ++ asc ['G', 'E', 'T', ':', '1', ':', '8', '2', '6', 'D', ':'])

/-- The Frame of a GET to device 1 with a CRC field. -/
def getFrame (crcfield : Bytes) : Frame where
  family := .blockColon
  addr := some 1
  payload := asc ['G', 'E', 'T', ':', '1']
  crcfield := some crcfield
  span := asc ['G', 'E', 'T', ':', '1', ':']
  chkvalid := false

theorem witness_WrongCrcIsAChecksumMismatch :
    (CompletesFrame badGet 0x03#8 ∧ badGet.cfg.family.isLine = false ∧
      locateFrame badGet.cfg (pendingFrame badGet 0x03#8) = some (getFrame (asc ['8', '2', '6', 'E']))) ∧
      (∃ d v, d ∈ targets badGet (some 1) ∧ badGet.devs[d]? = some v ∧ v.chkEn = true) ∧
      ¬ CrcRight badGet.cfg (getFrame (asc ['8', '2', '6', 'E'])) := by
  refine ⟨by decide, ⟨0, Dev.atReset badGet.cfg (vectorDev 1), by decide⟩, ?_⟩
  rintro ⟨h, h1, h2⟩
  cases h1
  revert h2
  decide +kernel

/-- A check that passes the lines `R` and `X`, and strips nothing from them. -/
def lineCheckR : LineCheck :=
  ⟨⟨[([0x52#8], true), ([0x58#8], true)], .const false⟩, ⟨[([0x52#8], [0x52#8]), ([0x58#8], [0x58#8])], .const []⟩⟩

/-- A configured line check. -/
def lineCheckCfg : Config := { cf .lineKeyword [0] with lineCheck := some lineCheckR }

/-- Lines under a configured check: one that passes and has a keyword, one that passes and has none, one that fails; and a
configured keyword (witness_ConfiguredCommandsFollowTheirClass). -/
theorem witness_LineCheckDecidesTheLine :
    (∀ line ∈ [[0x52#8], [0x58#8], [0x59#8]],
      let s := withLine (State.resetWith lineCheckCfg) line
      CompletesFrame s 0x0D#8 ∧ s.cfg.family.isLine = true ∧
        locateFrame s.cfg (pendingFrame s 0x0D#8) = some ⟨.lineKeyword, none, line, none, [], true⟩ ∧
        s.cfg.lineCheck = some lineCheckR) ∧
      (let s := State.resetWith lineCheckCfg
       (∃ d v, d ∈ targets s none ∧ s.devs[d]? = some v ∧ v.chkEn = true) ∧
        (lineCheckR.passes [0x52#8] = true ∧
          tokenize s.cfg none (lineCheckR.stripped [0x52#8]) = some ⟨.r, noArgs⟩ ∧
          instrOf ⟨.r, noArgs⟩ = .ok (.r noArgs)) ∧
        (lineCheckR.passes [0x58#8] = true ∧ matchKeyword s.cfg (lineCheckR.stripped [0x58#8]) = none) ∧
        lineCheckR.passes [0x59#8] = false) :=
  ⟨by decide, ⟨0, Dev.atReset lineCheckCfg (vectorDev 0), by decide⟩, by decide, by decide, by decide⟩

/-- A line (V-T13). -/
theorem witness_UnknownKeyword_line :
    let s := withLine (st .lineKeyword [0]) (asc ['R', 'E', 'S'])
    CompletesFrame s 0x0D#8 ∧
      locateFrame s.cfg (pendingFrame s 0x0D#8) =
        some { family := .lineKeyword, addr := none, payload := asc ['R', 'E', 'S'], crcfield := none, span := [], chkvalid := true } ∧
      targets s none ≠ [] ∧ s.cfg.family ≠ .blockColon ∧ matchKeyword s.cfg (asc ['R', 'E', 'S']) = none ∧
      s.cfg.family.isLine = true ∧ s.cfg.lineCheck = none := by decide

/-- A `BLOCK_COLON` frame that is checked, with the right CRC (V-C13). -/
theorem witness_UnknownKeywordIsAnUnknownCommand :
    let s := withLine (st .blockColon [1])
      ([0x02#8, 0x02#8] ++ asc ['G', 'E', 'T', ':', '1', ':', '1', 'D', '5', '0', ':'])
    let f : Frame := ⟨.blockColon, some 1, 0x02#8 :: asc ['G', 'E', 'T', ':', '1'], some (asc ['1', 'D', '5', '0']),
      0x02#8 :: asc ['G', 'E', 'T', ':', '1', ':'], false⟩
    (CompletesFrame s 0x03#8 ∧ locateFrame s.cfg (pendingFrame s 0x03#8) = some f ∧ targets s f.addr ≠ [] ∧
        s.cfg.family = .blockColon ∧ matchKeyword s.cfg (f.payload.takeWhile (· != Ascii.colon)) = none) ∧
      s.cfg.family.isLine = false ∧ (∃ d v, d ∈ targets s f.addr ∧ s.devs[d]? = some v ∧ v.chkEn = true) ∧
      CrcRight s.cfg f :=
  ⟨by decide, by decide, ⟨0, Dev.atReset (cf .blockColon [1]) (vectorDev 1), by decide⟩, _, rfl, by decide +kernel⟩

/-- A `BLOCK_SPACE` frame that no target checks. -/
theorem witness_UnknownKeyword_unchecked :
    let s := withLine (State.resetWith { cf .blockSpace [0] with chkEnReset := false })
      ([0x02#8] ++ asc ['R', 'E', 'S', ' ', '0'])
    let f : Frame := ⟨.blockSpace, none, asc ['R', 'E', 'S'], some (asc ['0']), asc ['R', 'E', 'S', ' '], false⟩
    (CompletesFrame s 0x03#8 ∧ locateFrame s.cfg (pendingFrame s 0x03#8) = some f ∧ targets s f.addr ≠ [] ∧
        s.cfg.family ≠ .blockColon ∧ matchKeyword s.cfg f.payload = none) ∧
      ¬ ∃ d v, d ∈ targets s f.addr ∧ s.devs[d]? = some v ∧ v.chkEn = true := by
  refine ⟨by decide, ?_⟩
  rintro ⟨d, v, hd, hv, hk⟩
  obtain rfl : d = 0 := List.mem_singleton.1 (show d ∈ [0] from hd)
  cases hv
  revert hk
  decide

theorem witness_StepRunsThePortOperation :
    let s := (st .lineComma [0]).loadProgram [0x41#8]
    s.inbox = .port .rxByte [[0x41#8]] :: [] ∧ decode s.cfg (.port .rxByte [[0x41#8]]) = .ok (.rxByte 0x41#8) ∧
      decode s.cfg (.port .rxByte []) = .error .portData := by decide

/-- A line, and a checked block frame with the right CRC. -/
theorem witness_StepRunsTheDecodedCommand :
    (let s := { withLine (st .lineKeyword [0]) (asc ['R', 'U', 'N']) with inbox := [deliver 0x0D#8] }
     s.inbox = deliver 0x0D#8 :: [] ∧ CompletesFrame s 0x0D#8 ∧
      locateFrame s.cfg (pendingFrame s 0x0D#8) =
        some { family := .lineKeyword, addr := none, payload := asc ['R', 'U', 'N'], crcfield := none, span := [], chkvalid := true } ∧
      decode s.cfg (.wire (pendingFrame s 0x0D#8)) = .ok (.run noArgs) ∧ targets s none ≠ [] ∧
      s.cfg.family.isLine = true ∧ s.cfg.lineCheck = none) ∧
      (let s := { goodGet with inbox := [deliver 0x03#8] }
       s.inbox = deliver 0x03#8 :: [] ∧ CompletesFrame s 0x03#8 ∧
        locateFrame s.cfg (pendingFrame s 0x03#8) = some (getFrame (asc ['8', '2', '6', 'D'])) ∧
        decode s.cfg (.wire (pendingFrame s 0x03#8)) = .ok (.get ⟨some 1, [], []⟩) ∧ targets s (some 1) ≠ [] ∧
        s.cfg.family.isLine = false ∧ chkApplies s (targets s (some 1)) = true) ∧
      CrcRight goodGet.cfg (getFrame (asc ['8', '2', '6', 'D'])) :=
  ⟨by decide, by decide, ⟨_, rfl, by decide +kernel⟩⟩

theorem witness_EnvironmentMoves :
    (st .lineComma [0]).inbox = [] ∧ ({ st .lineComma [0] with inbox := [.noByte] } : State).inbox = .noByte :: [] ∧
      ({ st .lineComma [0] with inbox := [.sender 5 []] } : State).inbox = .sender 5 [] :: [] ∧
      ({ st .lineComma [0] with inbox := [.shutdown] } : State).inbox = .shutdown :: [] ∧
      ({ st .lineComma [0] with inbox := [.transmit] } : State).inbox = .transmit :: [] ∧
      ({ st .lineComma [0] with shutdown := true } : State).shutdown = true := by decide

/-- A sender's move to a waiting sender, before and after SHUTDOWN; a device that is due at once, one whose interval has
just passed, and one whose interval has not. -/
theorem witness_SenderServesDueDevices :
    let s := { st .lineKeyword [0] with inbox := [.sender 100 [some [0x31#8]]] }
    let v := vectorDev 0
    (s.inbox = .sender 100 [some [0x31#8]] :: [] ∧ s.senderPhase = .waiting ∧ s.pending = []) ∧
      (s.shutdown = false ∧ ({ s with shutdown := true } : State).shutdown = true) ∧
      ({ v with mode := .continuous }.mode = .continuous ∧ { v with lastTx := none }.lastTx = none) ∧
      ({ v with interval := 100, lastTx := some 0 }.interval ≤ s.now + 100 - 0) ∧
      ¬ { v with interval := 101, lastTx := some 0 }.interval ≤ s.now + 100 - 0 := by decide

theorem witness_SenderWritesThenStamps :
    let s := { st .lineKeyword [0] with inbox := [.sender 100 []] }
    s.inbox = .sender 100 [] :: [] ∧ ({ s with senderPhase := .collected } : State).senderPhase = .collected ∧
      ({ s with senderPhase := .written } : State).senderPhase = .written ∧
      ({ s with senderPhase := .exited } : State).senderPhase = .exited := by decide

theorem witness_ResetValues :
    (cf .lineComma [5, 6]).devices[1]? = some (vectorDev 6) ∧ ((cf .lineComma [5, 6]).devices.map (·.address)).Nodup := by
  decide

theorem witness_ResetIsCleanAndHasInvariant : (cf .blockColon [1]).wf := test_config_wf_accepts.2.2.1

/-- A step from a state with the invariant. -/
theorem witness_StepKeepsInvariant : (st .lineComma [0]).Inv ∧ ∃ t, step (st .lineComma [0]) = .next t :=
  ⟨inv_st test_config_wf_accepts.1 (by decide) (by decide), ⟨_, rfl⟩⟩

theorem witness_StepKeepsConfigurationAndIdentity :
    ∃ t v w, step ((st .lineComma [0]).loadProgram [0x41#8]) = .next t ∧
      ((st .lineComma [0]).loadProgram [0x41#8]).devs[0]? = some v ∧ t.devs[0]? = some w :=
  ⟨_, _, _, rfl, rfl, rfl⟩

theorem witness_OnlyTheSenderWritesMeasAndLastTx :
    ∃ t v w, exec (.start noArgs) (st .lineKeyword [0]) = .next t ∧ (st .lineKeyword [0]).devs[0]? = some v ∧
      t.devs[0]? = some w :=
  ⟨_, _, _, rfl, rfl, rfl⟩

/-- RUN changes a mode, `SET 5 50` an interval. -/
theorem witness_ModeOrIntervalChangeLeavesWakeSet :
    (∃ t v w, step { withLine (st .lineKeyword [0]) (asc ['R', 'U', 'N']) with inbox := [deliver 0x0D#8] } = .next t ∧
        (st .lineKeyword [0]).devs[0]? = some v ∧ t.devs[0]? = some w ∧ w.mode ≠ v.mode) ∧
      ∃ t v w, step { withLine (st .lineKeyword [0]) (asc ['S', 'E', 'T', ' ', '5', ' ', '5', '0']) with
            inbox := [deliver 0x0D#8] } = .next t ∧
        (st .lineKeyword [0]).devs[0]? = some v ∧ t.devs[0]? = some w ∧ w.interval ≠ v.interval :=
  ⟨⟨_, _, _, rfl, rfl, rfl, by decide⟩, ⟨_, _, _, rfl, rfl, rfl, by decide⟩⟩

theorem witness_LogGrowsAndMarksStay :
    ∃ t, step { st .lineKeyword [0] with shutdown := true, refused := true } = .next t := ⟨_, rfl⟩

/-- V-T13. -/
theorem witness_ErrorOutcomesArePrecise :
    let s := withLine (st .lineKeyword [0]) (asc ['R', 'E', 'S'])
    CompletesFrame s 0x0D#8 ∧ ∃ t, exec (.rxByte 0x0D#8) s = .next t ∧
      t.outlog = s.outlog ++ [⟨.unknownCommand, none, none⟩] :=
  ⟨by decide, ⟨_, rfl, rfl⟩⟩

end Sys2Proof.Tests
end

section
/-! PROOFS. Decimal digits: the value of a string of them, its rendering `dec` (00_scope.md R12), and what the forms UINT
and FIX2 read (30_encoding.md R89). -/

namespace Sys2Proof

/-! ## Digits -/

theorem isDigit_iff (b : Byte) : isDigit b = true ↔ 0x30#8 ≤ b ∧ b ≤ 0x39#8 := by
  simp [isDigit]

theorem digitByte_toNat {n : Nat} (h : n < 10) : (digitByte n).toNat = 0x30 + n := by
  simp only [digitByte, BitVec.toNat_ofNat]
  omega

theorem isDigit_digitByte {n : Nat} (h : n < 10) : isDigit (digitByte n) = true := by
  rw [isDigit_iff, BitVec.le_def, BitVec.le_def, digitByte_toNat h]
  simp only [BitVec.toNat_ofNat]
  omega

theorem digitVal_digitByte {n : Nat} (h : n < 10) : digitVal (digitByte n) = n := by
  rw [digitVal, digitByte_toNat h, Nat.add_sub_cancel_left]

theorem not_isDigit_dot : isDigit Ascii.dot = false := by decide

theorem not_isDigit_colon : isDigit Ascii.colon = false := by decide

/-- The run of leading digits ends before a byte that is none. -/
theorem takeWhile_isDigit_append_cons {w : Bytes} {c : Byte} (rest : Bytes) (hw : ∀ b ∈ w, isDigit b = true)
    (hc : isDigit c = false) : (w ++ c :: rest).takeWhile isDigit = w := by
  simp [List.takeWhile_append_of_pos hw, hc]

theorem dropWhile_isDigit_append_cons {w : Bytes} {c : Byte} (rest : Bytes) (hw : ∀ b ∈ w, isDigit b = true)
    (hc : isDigit c = false) : (w ++ c :: rest).dropWhile isDigit = c :: rest := by
  simp [List.dropWhile_append_of_pos hw, hc]

/-! ## The value of a string of digits -/

theorem decimal_concat (w : Bytes) (b : Byte) : decimal (w ++ [b]) = decimal w * 10 + digitVal b := by
  simp [decimal]

/-- The value is positional, the last digit the lowest. -/
theorem decimal_eq_ofDigits (w : Bytes) : decimal w = Nat.ofDigits 10 (w.reverse.map fun b => b.toNat - 48) := by
  induction w using List.reverseRecOn with
  | nil => rfl
  | append_singleton w b ih =>
    rw [decimal_concat, List.reverse_concat, List.map_cons, Nat.ofDigits_cons, ← ih, digitVal]
    omega

/-- The first two fraction digits, a missing one being 0 (R89). -/
theorem hundredths_eq (frac : Bytes) :
    hundredths frac =
      10 * (frac[0]?.map fun b => b.toNat - 48).getD 0 + (frac[1]?.map fun b => b.toNat - 48).getD 0 := by
  match frac with
  | [] => rfl
  | [a] => simp [hundredths, digitVal, Nat.mul_comm]
  | a :: b :: _ => simp [hundredths, digitVal, Nat.mul_comm]

/-! ## The rendering -/

/-- Fuel beyond the number changes nothing. -/
theorem decDigits_fuel {n f g : Nat} (hf : n < f) (hg : n < g) : decDigits f n = decDigits g n := by
  induction f generalizing n g with
  | zero => omega
  | succ f ih =>
    cases g with
    | zero => omega
    | succ g =>
      by_cases hn : n < 10
      · simp [decDigits, hn]
      · simp only [decDigits, hn, if_false]
        rw [ih (g := g) (by omega) (by omega)]

theorem dec_of_lt {n : Nat} (h : n < 10) : dec n = [digitByte n] := by
  simp [dec, decDigits, h]

theorem dec_of_ge {n : Nat} (h : 10 ≤ n) : dec n = dec (n / 10) ++ [digitByte (n % 10)] := by
  have hn : ¬ n < 10 := by omega
  rw [dec, decDigits, if_neg hn, decDigits_fuel (g := n / 10 + 1) (by omega) (by omega), dec]

theorem dec_ne_nil (n : Nat) : dec n ≠ [] := by
  rcases Nat.lt_or_ge n 10 with h | h
  · simp [dec_of_lt h]
  · simp [dec_of_ge h]

theorem isDigit_of_mem_dec {n : Nat} {b : Byte} (hb : b ∈ dec n) : isDigit b = true := by
  induction n using Nat.strongRecOn with
  | ind n ih =>
    rcases Nat.lt_or_ge n 10 with h | h
    · rw [dec_of_lt h, List.mem_singleton] at hb
      exact hb ▸ isDigit_digitByte h
    · rw [dec_of_ge h, List.mem_append, List.mem_singleton] at hb
      rcases hb with hb | rfl
      · exact ih (n / 10) (by omega) hb
      · exact isDigit_digitByte (by omega)

theorem decimal_dec (n : Nat) : decimal (dec n) = n := by
  induction n using Nat.strongRecOn with
  | ind n ih =>
    rcases Nat.lt_or_ge n 10 with h | h
    · rw [dec_of_lt h]
      simp [decimal, digitVal_digitByte h]
    · rw [dec_of_ge h, decimal_concat, ih (n / 10) (by omega), digitVal_digitByte (by omega)]
      omega

/-- `dec` is the shortest rendering: only zero begins with the digit 0. -/
theorem eq_zero_of_head?_dec {n : Nat} (h0 : (dec n).head? = some 0x30#8) : n = 0 := by
  induction n using Nat.strongRecOn with
  | ind n ih =>
    rcases Nat.lt_or_ge n 10 with h | h
    · rw [dec_of_lt h, List.head?_cons, Option.some.injEq] at h0
      have hv := congrArg digitVal h0
      rwa [digitVal_digitByte h] at hv
    · rw [dec_of_ge h, List.head?_append_of_ne_nil _ (dec_ne_nil _)] at h0
      have := ih (n / 10) (by omega) h0
      omega

/-! ## The forms UINT and FIX2 -/

theorem parseUint_eq_some_iff {bs : Bytes} {n : Nat} :
    parseUint bs = some n ↔ bs ≠ [] ∧ (∀ b ∈ bs, isDigit b = true) ∧ n = decimal bs := by
  rw [parseUint, Option.ite_none_right_eq_some, List.all_eq_true, Option.some.injEq, and_assoc, eq_comm (a := n)]

theorem parseUint_dec (n : Nat) : parseUint (dec n) = some n :=
  parseUint_eq_some_iff.2 ⟨dec_ne_nil n, fun _ => isDigit_of_mem_dec, (decimal_dec n).symm⟩

/-- FIX2 on digits alone. -/
theorem parseFix2_whole {w : Bytes} (hn : w ≠ []) (hw : ∀ b ∈ w, isDigit b = true) :
    parseFix2 w = some (decimal w * 100) := by
  obtain ⟨a, t, rfl⟩ := List.exists_cons_of_ne_nil hn
  simp only [parseFix2, List.takeWhile_eq_self_iff.2 hw, List.dropWhile_eq_nil_iff.2 hw]

/-- FIX2 on digits, a point and a fraction, which may be empty. -/
theorem parseFix2_append_dot {w frac : Bytes} (hn : w ≠ []) (hw : ∀ b ∈ w, isDigit b = true)
    (hf : ∀ b ∈ frac, isDigit b = true) :
    parseFix2 (w ++ Ascii.dot :: frac) = some (decimal w * 100 + hundredths frac) := by
  obtain ⟨a, t, rfl⟩ := List.exists_cons_of_ne_nil hn
  simp only [parseFix2, takeWhile_isDigit_append_cons frac hw not_isDigit_dot,
    dropWhile_isDigit_append_cons frac hw not_isDigit_dot, List.all_eq_true.2 hf, and_self, if_true]

/-- What FIX2 reads, and nothing else. -/
theorem parseFix2_eq_some_iff {bs : Bytes} {n : Nat} :
    parseFix2 bs = some n ↔ ∃ whole frac : Bytes, whole ≠ [] ∧ (∀ b ∈ whole, isDigit b = true) ∧
      (∀ b ∈ frac, isDigit b = true) ∧ (bs = whole ∧ frac = [] ∨ bs = whole ++ Ascii.dot :: frac) ∧
      n = decimal whole * 100 + hundredths frac := by
  constructor
  · intro h
    have hsplit : bs.takeWhile isDigit ++ bs.dropWhile isDigit = bs := List.takeWhile_append_dropWhile
    have hw : ∀ b ∈ bs.takeWhile isDigit, isDigit b = true := fun _ => List.mem_takeWhile_imp
    unfold parseFix2 at h
    dsimp only at h
    split at h
    · cases h
    · rename_i a t hwhole hrest
      refine ⟨bs.takeWhile isDigit, [], by simp [hwhole], hw, by simp, .inl ⟨?_, rfl⟩, ?_⟩
      · rw [hrest, List.append_nil] at hsplit
        exact hsplit.symm
      · simpa [hundredths] using h.symm
    · rename_i a t c frac hwhole hrest
      split at h
      · rename_i hc
        obtain ⟨rfl, hfrac⟩ := hc
        refine ⟨bs.takeWhile isDigit, frac, by simp [hwhole], hw, List.all_eq_true.1 hfrac, .inr ?_, ?_⟩
        · rw [← hrest, hsplit]
        · simpa using h.symm
      · cases h
  · rintro ⟨whole, frac, hn, hw, hf, ⟨rfl, rfl⟩ | rfl, rfl⟩
    · exact parseFix2_whole hn hw
    · exact parseFix2_append_dot hn hw hf

/-- A rendered interval is read back (44_commands.md R221), in each of its three shapes. -/
theorem parseFix2_renderInterval (v : Nat) : parseFix2 (renderInterval v) = some v := by
  have hdec : ∀ b ∈ dec (v / 100), isDigit b = true := fun _ => isDigit_of_mem_dec
  have htens : v % 100 / 10 < 10 := by omega
  have hones : v % 100 % 10 < 10 := by omega
  unfold renderInterval
  dsimp only
  split
  · rw [parseFix2_whole (dec_ne_nil _) hdec, decimal_dec, Option.some.injEq]
    omega
  split
  · rw [dec_of_lt htens, List.append_assoc, List.singleton_append,
      parseFix2_append_dot (dec_ne_nil _) hdec (by simpa using isDigit_digitByte htens), decimal_dec, hundredths,
      digitVal_digitByte htens, Option.some.injEq]
    omega
  · rw [parseFix2_append_dot (dec_ne_nil _) hdec
        (List.forall_mem_cons.2 ⟨isDigit_digitByte htens, List.forall_mem_singleton.2 (isDigit_digitByte hones)⟩),
      decimal_dec, hundredths, digitVal_digitByte htens, digitVal_digitByte hones, Option.some.injEq]
    omega

/-! ## `param` (42_tokenizer.md R172) -/

theorem param_of_some {fields : List Bytes} {i : Nat} {form : Bytes → Option Nat} {v : Nat} (cfg : Config) (dflt : Nat)
    (h : fields[i]?.bind form = some v) : param cfg dflt fields i form = .value v := by
  simp only [param, h]

theorem param_of_none_useDefault {cfg : Config} {fields : List Bytes} {i : Nat} {form : Bytes → Option Nat}
    (dflt : Nat) (h : fields[i]?.bind form = none) (hp : cfg.missingFieldPolicy = .useDefault) :
    param cfg dflt fields i form = .value dflt := by
  simp only [param, h, hp]

theorem param_of_none_keep {cfg : Config} {fields : List Bytes} {i : Nat} {form : Bytes → Option Nat}
    (dflt : Nat) (h : fields[i]?.bind form = none) (hp : cfg.missingFieldPolicy = .keep) :
    param cfg dflt fields i form = .keep := by
  simp only [param, h, hp]

end Sys2Proof
end

section
/-! PROOFS. Splitting a string at a delimiter (42_tokenizer.md R168), and the tail and the command that the tokenizers read
off a payload (R163 to R171). -/

namespace Sys2Proof

/-! ## Cutting at a delimiter -/

theorem pieces_of_not_mem {d : Byte} {f : Bytes} (h : d ∉ f) : pieces d f = [f] := by
  induction f with
  | nil => rfl
  | cons b f ih =>
    obtain ⟨hb, hf⟩ := List.ne_and_not_mem_of_not_mem_cons h
    simp [pieces, Ne.symm hb, ih hf]

theorem pieces_append_cons {d : Byte} {f : Bytes} (rest : Bytes) (h : d ∉ f) :
    pieces d (f ++ d :: rest) = f :: pieces d rest := by
  induction f with
  | nil => simp [pieces]
  | cons b f ih =>
    obtain ⟨hb, hf⟩ := List.ne_and_not_mem_of_not_mem_cons h
    simp [pieces, Ne.symm hb, ih hf]

/-- A string is a piece without a delimiter, or such a piece, a delimiter and a rest. -/
theorem delimiter_induction (d : Byte) {motive : Bytes → Prop} (last : ∀ f, d ∉ f → motive f)
    (cut : ∀ f rest, d ∉ f → motive rest → motive (f ++ d :: rest)) (t : Bytes) : motive t := by
  induction hn : t.length using Nat.strongRecOn generalizing t with
  | ind n ih =>
    by_cases hd : d ∈ t
    · obtain ⟨f, rest, rfl, hf⟩ := List.eq_append_cons_of_mem hd
      exact cut f rest hf (ih rest.length (by simp at hn; omega) rest rfl)
    · exact last t hd

theorem not_mem_of_mem_pieces {d : Byte} {t f : Bytes} (hf : f ∈ pieces d t) : d ∉ f := by
  induction t using delimiter_induction d with
  | last g hg =>
    rw [pieces_of_not_mem hg, List.mem_singleton] at hf
    exact hf ▸ hg
  | cut g rest hg ih =>
    rw [pieces_append_cons rest hg, List.mem_cons] at hf
    rcases hf with rfl | hf
    · exact hg
    · exact ih hf

theorem pieces_ne_nil (d : Byte) (t : Bytes) : pieces d t ≠ [] := by
  induction t using delimiter_induction d with
  | last f hf => simp [pieces_of_not_mem hf]
  | cut f rest hf _ => simp [pieces_append_cons rest hf]

theorem intercalate_pieces (d : Byte) (t : Bytes) : [d].intercalate (pieces d t) = t := by
  induction t using delimiter_induction d with
  | last f hf => rw [pieces_of_not_mem hf, List.intercalate_singleton]
  | cut f rest hf ih =>
    obtain ⟨g, gs, hg⟩ := List.exists_cons_of_ne_nil (pieces_ne_nil d rest)
    rw [hg] at ih
    rw [pieces_append_cons rest hf, hg, List.intercalate_cons_cons, ih, List.append_assoc, List.singleton_append]

theorem length_pieces (d : Byte) (t : Bytes) : (pieces d t).length = t.count d + 1 := by
  induction t using delimiter_induction d with
  | last f hf => simp [pieces_of_not_mem hf, List.count_eq_zero_of_not_mem hf]
  | cut f rest hf ih => simp [pieces_append_cons rest hf, List.count_eq_zero_of_not_mem hf, ih]

@[simp] theorem split_nil (d : Byte) : split [] d = [] := rfl

theorem split_of_ne_nil {t : Bytes} (d : Byte) (h : t ≠ []) : split t d = pieces d t := if_neg h

/-- A string of two fields or more: its first field, a delimiter, and a rest whose pieces are the others. -/
theorem split_eq_cons_cons {d : Byte} {t f g : Bytes} {fs : List Bytes} (h : split t d = f :: g :: fs) :
    d ∉ f ∧ ∃ rest, t = f ++ d :: rest ∧ pieces d rest = g :: fs := by
  have ht : t ≠ [] := by rintro rfl; cases h
  rw [split_of_ne_nil d ht] at h
  by_cases hd : d ∈ t
  · obtain ⟨f', rest, rfl, hf'⟩ := List.eq_append_cons_of_mem hd
    rw [pieces_append_cons rest hf', List.cons.injEq] at h
    obtain ⟨rfl, hrest⟩ := h
    exact ⟨hf', rest, rfl, hrest⟩
  · rw [pieces_of_not_mem hd] at h
    cases h

/-- What stands after the first delimiter. -/
theorem dropWhile_ne_append_cons {d : Byte} {f : Bytes} (rest : Bytes) (h : d ∉ f) :
    (f ++ d :: rest).dropWhile (· != d) = d :: rest := by
  have hf : ∀ b ∈ f, (b != d) = true := fun b hb => bne_iff_ne.2 fun e => h (e ▸ hb)
  simp [List.dropWhile_append_of_pos hf]

/-- After the first piece of a string and the delimiter that follows it stands what `drop` leaves. -/
theorem drop_one_dropWhile_ne {d : Byte} {t f : Bytes} {fs : List Bytes} (h : pieces d t = f :: fs) :
    (t.dropWhile (· != d)).drop 1 = t.drop (f.length + 1) := by
  by_cases hd : d ∈ t
  · obtain ⟨f', rest, rfl, hf'⟩ := List.eq_append_cons_of_mem hd
    rw [pieces_append_cons rest hf', List.cons.injEq] at h
    obtain ⟨rfl, -⟩ := h
    rw [dropWhile_ne_append_cons rest hf', List.drop_length_add_append]
  · rw [pieces_of_not_mem hd, List.cons.injEq] at h
    obtain ⟨rfl, -⟩ := h
    have ht : ∀ b ∈ t, (b != d) = true := fun b hb => bne_iff_ne.2 fun e => hd (e ▸ hb)
    rw [List.dropWhile_eq_nil_iff.2 ht, List.drop_nil, List.drop_eq_nil_of_le (Nat.le_succ _)]

/-- The raw tail of `BLOCK_COLON` by its index (R167). -/
theorem afterSecondColon_eq_drop {p kw id : Bytes} {fields : List Bytes}
    (h : split p Ascii.colon = kw :: id :: fields) :
    afterSecondColon p = p.drop (kw.length + 1 + id.length + 1) := by
  obtain ⟨hkw, rest, rfl, hrest⟩ := split_eq_cons_cons h
  have hdrop (k : Nat) : (kw ++ Ascii.colon :: rest).drop (kw.length + 1 + k) = rest.drop k := by
    rw [Nat.add_assoc, List.drop_length_add_append, Nat.add_comm, List.drop_succ_cons]
  rw [afterSecondColon, dropWhile_ne_append_cons rest hkw, List.drop_succ_cons, List.drop_zero,
    drop_one_dropWhile_ne hrest, Nat.add_assoc (kw.length + 1), hdrop]

/-! ## The tail after a keyword (R163) -/

theorem tailOf_of_le {p : Bytes} {n : Nat} (h : p.length ≤ n) : tailOf p n = [] := by
  simp [tailOf, List.drop_eq_nil_of_le h]

theorem tailOf_of_getElem? {p : Bytes} {n : Nat} {c : Byte} (h : p[n]? = some c) :
    tailOf p n = if c = Ascii.query then p.drop n else p.drop (n + 1) := by
  obtain ⟨hn, hc⟩ := List.getElem?_eq_some_iff.1 h
  simp only [tailOf, List.drop_eq_getElem_cons hn, hc]

/-! ## The command of a payload (R167 to R170) -/

theorem tokenize_eq_tokenizeTail {cfg : Config} (h : cfg.family ≠ .blockColon) (addr : Option Nat) (p : Bytes) :
    tokenize cfg addr p = tokenizeTail cfg addr p := by
  unfold tokenize
  cases hf : cfg.family with
  | blockColon => exact absurd hf h
  | lineComma => rfl
  | blockSpace => rfl
  | lineKeyword => rfl

theorem tokenize_eq_tokenizeBc {cfg : Config} (h : cfg.family = .blockColon) (addr : Option Nat) (p : Bytes) :
    tokenize cfg addr p = tokenizeBc cfg addr p := by
  simp only [tokenize, h]

theorem tokenizeTail_of_noMatch {cfg : Config} {p : Bytes} (addr : Option Nat) (h : matchKeyword cfg p = none) :
    tokenizeTail cfg addr p = none := by
  simp only [tokenizeTail, h, Option.map_none]

theorem tokenizeTail_of_match {cfg : Config} {p k : Bytes} {kind : Kind} (addr : Option Nat)
    (h : matchKeyword cfg p = some (k, kind)) :
    tokenizeTail cfg addr p =
      some ⟨kind, ⟨addr, split (tailOf p k.length) cfg.family.delim, tailOf p k.length⟩⟩ := by
  simp only [tokenizeTail, h, Option.map_some]

/-- `tokenize_bc` on a payload of two fields or more (R167). -/
theorem tokenizeBc_of_split {cfg : Config} {p kw id : Bytes} {fields : List Bytes} (addr : Option Nat)
    (h : split p Ascii.colon = kw :: id :: fields) :
    tokenizeBc cfg addr p =
      (matchKeyword cfg kw).bind fun e =>
        if e.1.length = kw.length then
          some ⟨e.2, ⟨addr, fields, p.drop (kw.length + 1 + id.length + 1)⟩⟩
        else none := by
  simp only [tokenizeBc, h, afterSecondColon_eq_drop h]

/-- A command carries the address of its frame. -/
theorem addr_of_tokenize {cfg : Config} {addr : Option Nat} {p : Bytes} {c : Cmd} (h : tokenize cfg addr p = some c) :
    c.args.addr = addr := by
  by_cases hf : cfg.family = .blockColon
  · rw [tokenize_eq_tokenizeBc hf, tokenizeBc] at h
    split at h
    · obtain ⟨e, -, he⟩ := Option.bind_eq_some_iff.1 h
      obtain ⟨-, hc⟩ := Option.ite_none_right_eq_some.1 he
      rw [← Option.some.inj hc]
    · cases h
  · rw [tokenize_eq_tokenizeTail hf, tokenizeTail] at h
    obtain ⟨e, -, rfl⟩ := Option.map_eq_some_iff.1 h
    rfl

/-! ## The address of a line (R165) -/

theorem splitPrefix_disabled {cfg : Config} (h : cfg.addrPrefixEn = false) (line : Bytes) :
    splitPrefix cfg line = (none, line) := by
  simp [splitPrefix, h]

theorem splitPrefix_of_digits_colon {cfg : Config} {w : Bytes} (rest : Bytes) (he : cfg.addrPrefixEn = true) (hn : w ≠ [])
    (hw : ∀ b ∈ w, isDigit b = true) :
    splitPrefix cfg (w ++ Ascii.colon :: rest) = (some (decimal w), rest) := by
  obtain ⟨a, t, rfl⟩ := List.exists_cons_of_ne_nil hn
  simp only [splitPrefix, he, if_true, takeWhile_isDigit_append_cons rest hw not_isDigit_colon,
    dropWhile_isDigit_append_cons rest hw not_isDigit_colon]

theorem splitPrefix_of_noPrefix {cfg : Config} {line : Bytes}
    (h : ¬ ∃ w rest, w ≠ [] ∧ (∀ b ∈ w, isDigit b = true) ∧ line = w ++ Ascii.colon :: rest) :
    splitPrefix cfg line = (none, line) := by
  unfold splitPrefix
  split
  · split
    · rename_i d ds c rest hw hrest
      split
      · rename_i hc
        refine absurd ⟨line.takeWhile isDigit, rest, by simp [hw], fun _ => List.mem_takeWhile_imp, ?_⟩ h
        rw [← hc, ← hrest, List.takeWhile_append_dropWhile]
      · rfl
    · rfl
  · rfl

/-- A line is located whatever it holds, with the address `splitPrefix` gives (R136, R165). -/
theorem locateFrame_of_isLine {cfg : Config} (h : cfg.family.isLine = true) (line : Bytes) :
    locateFrame cfg line = some (extractLine cfg line) := by
  unfold locateFrame
  cases hf : cfg.family with
  | lineComma => rfl
  | lineKeyword => rfl
  | blockColon => rw [hf] at h; cases h
  | blockSpace => rw [hf] at h; cases h

/-! ## The two rows of `A` (R171) -/

theorem query_iff (a : Args) : a.query = true ↔ a.fields.head? = some [Ascii.query] := by
  simp [Args.query]

end Sys2Proof
end

section
/-! PROOFS. A frame in RX_BYTE (43_dispatch.md R199), stage by stage, up to the command of its payload; and the commands of
a configured class (44_commands.md R236). -/

namespace Sys2Proof.Machine

/-! ## The frame step -/

/-- The terminator of a frame starts its frame step, from the state with the buffer taken (41_framing.md R131, R134). -/
theorem exec_rxByte_of_completesFrame {b : Byte} {s : State} (h : CompletesFrame s b) :
    exec (.rxByte b) s = frameStep (pendingFrame s b) s.taken := by
  obtain ⟨hshut, hterm, hdisc, hline⟩ := h
  have hrx : exec (.rxByte b) s = receiveTerminator b s := by simp [exec, execRxByte, hshut, hterm]
  rw [hrx]
  unfold receiveTerminator pendingFrame
  cases hl : s.cfg.family.isLine with
  | true => simp [hdisc, hline hl, State.setRx, State.taken]
  | false => simp [hdisc, State.setRx, State.taken]

/-- A located frame with targets goes to its family's checksum stage. -/
theorem frameStep_of_located {raw : Bytes} {s : State} {f : Frame} (hf : locateFrame s.cfg raw = some f)
    (ht : targets s f.addr ≠ []) :
    frameStep raw s =
      if s.cfg.family.isLine then checkLine raw f (targets s f.addr) s else checkBlock f (targets s f.addr) s := by
  obtain ⟨d, ds, hd⟩ := List.exists_cons_of_ne_nil ht
  simp only [frameStep, hf, hd]

theorem chkApplies_iff (s : State) (ts : List Nat) :
    chkApplies s ts = true ↔ ∃ d v, d ∈ ts ∧ s.devs[d]? = some v ∧ v.chkEn = true := by
  simp only [chkApplies, List.any_eq_true]
  constructor
  · rintro ⟨d, hd, hc⟩
    cases hv : s.devs[d]? with
    | none => simp [hv] at hc
    | some v => exact ⟨d, v, hd, hv, by simpa [hv] using hc⟩
  · rintro ⟨d, v, hd, hv, hc⟩
    exact ⟨d, hd, by simp [hv, hc]⟩

/-! ## The checksum stages -/

/-- A line goes on unchecked where no target checks, or no check is configured (41_framing.md R138, R146). -/
theorem checkLine_unchecked {line : Bytes} {f : Frame} {ts : List Nat} {s : State}
    (h : chkApplies s ts = false ∨ s.cfg.lineCheck = none) :
    checkLine line f ts s = runPayload f.addr f.payload s := by
  unfold checkLine
  rcases h with h | h
  · cases s.cfg.lineCheck <;> simp [h]
  · simp only [h]

/-- A line that passes its check goes on with the stripped payload (R138). -/
theorem checkLine_passed {line : Bytes} {f : Frame} {ts : List Nat} {s : State} {chk : LineCheck}
    (hc : s.cfg.lineCheck = some chk) (ha : chkApplies s ts = true) (hp : chk.passes line = true) :
    checkLine line f ts s = runPayload f.addr (chk.stripped f.payload) s := by
  simp [checkLine, hc, ha, hp]

/-- A block frame goes on unchecked where no target checks (R146). -/
theorem checkBlock_unchecked {f : Frame} {ts : List Nat} {s : State} (h : chkApplies s ts = false) :
    checkBlock f ts s = runPayload f.addr f.payload s := by
  simp [checkBlock, h]

/-- A block frame whose CRC is right goes on after the CRC unit has run over its span (R145). -/
theorem checkBlock_passed {f : Frame} {ts : List Nat} {s : State} (ha : chkApplies s ts = true)
    (hr : CrcRight s.cfg f) : checkBlock f ts s = runPayload f.addr f.payload (s.runCrc f.span) := by
  obtain ⟨h, hfield, hcrc⟩ := hr
  simp [checkBlock, ha, hfield, chkvalidOf, State.runVerifyCrc, hcrc]

theorem runPayload_of_tokenize {addr : Option Nat} {p : Bytes} {s : State} {c : Cmd}
    (h : tokenize s.cfg addr p = some c) : runPayload addr p s = execCmd c s := by
  simp only [runPayload, h]

/-! ## Configured classes -/

/-- A command of R236 on targets that all have records: the result of its class. -/
theorem dispatchClass_eq_classResult {c : Cmd} {s : State} (hg : GoodTargets s c.args.addr) :
    dispatchClass c s = classResult s c := by
  unfold dispatchClass classResult
  cases classOf s.cfg c.kind with
  | none =>
    obtain ⟨d, ds, hd⟩ := List.exists_cons_of_ne_nil hg.1
    simp only [dispatchRefused, hd]
    rfl
  | some k =>
    cases k with
    | setClass schema => exact dispatch_eq_dispatchAll (fun _ => setRule_actsAs s.cfg c schema) hg
    | maskClass => exact dispatch_eq_dispatchAll (fun _ => maskRule_actsAs s.cfg c) hg
    | queryClass => exact dispatch_eq_dispatchAll (fun _ => queryRule_actsAs s.cfg c) hg
    | modeClass m => exact dispatch_eq_dispatchAll (fun _ => modeRule_actsAs s.cfg m) hg

/-- A payload that is a configured keyword's command ends in the result of its class. -/
theorem runPayload_configured {addr : Option Nat} {p : Bytes} {s : State} {n : Nat} {a : Args}
    (ht : tokenize s.cfg addr p = some ⟨.configured n, a⟩) (hg : GoodTargets s addr) :
    runPayload addr p s = .next (classResult s ⟨.configured n, a⟩) := by
  obtain rfl : a.addr = addr := addr_of_tokenize ht
  rw [runPayload_of_tokenize ht]
  exact congrArg Host.Outcome.next (dispatchClass_eq_classResult (c := ⟨.configured n, a⟩) hg)

end Sys2Proof.Machine
end

section
/-! PROOFS. The statements O16, O17 and O35. -/

namespace Sys2Proof.Machine

/-! ## O16 -/

theorem split_laws (t : Bytes) (d : Byte) :
    split [] d = [] ∧ (∀ f ∈ split t d, d ∉ f) ∧ [d].intercalate (split t d) = t ∧
      (t ≠ [] → (split t d).length = t.count d + 1) := by
  by_cases ht : t = []
  · simp [ht]
  · rw [split_of_ne_nil d ht]
    exact ⟨rfl, fun _ => not_mem_of_mem_pieces, intercalate_pieces d t, fun _ => length_pieces d t⟩

/-- Settles O16: the pieces of a string are cut off one by one (`delimiter_induction`), and the tokenizers read those. -/
theorem splitCutsAtEveryDelimiter : Obligations.SplitCutsAtEveryDelimiter := by
  refine ⟨split_laws, ⟨rfl, rfl, rfl, rfl⟩, fun p n => ⟨tailOf_of_le, fun c => tailOf_of_getElem?⟩, ?_, ?_, ?_⟩
  · intro cfg addr p
    refine ⟨fun hf => ?_, fun hf kw id fields hsplit => ?_⟩
    · rw [tokenize_eq_tokenizeTail hf]
      exact ⟨tokenizeTail_of_noMatch addr, fun k kind => tokenizeTail_of_match addr⟩
    · rw [tokenize_eq_tokenizeBc hf, tokenizeBc_of_split addr hsplit]
      refine ⟨fun k kind hm hlen => by simp [hm, hlen], fun hno => ?_⟩
      cases hm : matchKeyword cfg kw with
      | none => rfl
      | some e => simp [hno e hm]
  · intro cfg line hline
    rw [locateFrame_of_isLine hline]
    simp only [← isDigit_iff, ← decimal_eq_ofDigits, extractLine]
    refine ⟨?_, ?_⟩
    · rintro w rest hen ⟨hn, hw⟩ rfl
      rw [splitPrefix_of_digits_colon rest hen hn hw]
    · rintro (hdis | hno)
      · rw [splitPrefix_disabled hdis]
      · rw [splitPrefix_of_noPrefix (by simpa only [and_assoc] using hno)]
  · intro a
    simp only [instrOf, query_iff]

/-! ## O17 -/

/-- Settles O17: `dec` and `renderInterval` are read back by induction on the number's digits, and each form reads exactly
what its grammar says. -/
theorem renderedNumbersReadBack : Obligations.RenderedNumbersReadBack := by
  refine ⟨fun n => ⟨parseUint_dec n, fun h0 => ?_, parseFix2_renderInterval n⟩, fun bs n => ?_, ?_⟩
  · obtain rfl := eq_zero_of_head?_dec h0
    exact ⟨rfl, rfl⟩
  · simp only [← isDigit_iff, ← decimal_eq_ofDigits]
    refine ⟨parseUint_eq_some_iff, ?_⟩
    simp only [parseFix2_eq_some_iff, hundredths_eq, Nat.mul_comm 100, Nat.add_assoc]
  · intro cfg dflt fields i form
    refine ⟨fun t v ht hv => param_of_some cfg dflt (by simp [ht, hv]), fun hmiss => ?_⟩
    have hnone : fields[i]?.bind form = none := by
      rcases hmiss with hlen | ⟨t, ht, hform⟩
      · rw [List.getElem?_eq_none hlen, Option.bind_none]
      · rw [ht, Option.bind_some, hform]
    exact ⟨param_of_none_useDefault dflt hnone, param_of_none_keep dflt hnone⟩

/-! ## O35 -/

/-- Settles O35: a frame's checksum stage hands the payload on, and its command ends in the result of its class. -/
theorem configuredCommandsFollowTheirClass : Obligations.ConfiguredCommandsFollowTheirClass := by
  refine ⟨fun a n s hg => ?_, fun b s f n a hb hf hg => ?_⟩
  · exact ⟨congrArg Host.Outcome.next (dispatchClass_eq_classResult (c := ⟨.r, a⟩) hg),
      congrArg Host.Outcome.next (dispatchClass_eq_classResult (c := ⟨.reset, a⟩) hg),
      congrArg Host.Outcome.next (dispatchClass_eq_classResult (c := ⟨.configured n, a⟩) hg)⟩
  have hframe : exec (.rxByte b) s =
      if s.cfg.family.isLine then checkLine (pendingFrame s b) f (targets s f.addr) s.taken
      else checkBlock f (targets s f.addr) s.taken :=
    (exec_rxByte_of_completesFrame hb).trans (frameStep_of_located (s := s.taken) hf hg.1)
  have hchecks := chkApplies_iff s.taken (targets s f.addr)
  rw [hframe]
  dsimp only
  refine ⟨fun ht => ⟨fun hun => ?_, fun hblock hchk hcrc => ?_⟩, fun chk hline hlc hchk hpass ht => ?_⟩
  · have hrun := runPayload_configured (s := s.taken) ht hg
    have hun' : chkApplies s.taken (targets s f.addr) = false ∨
        s.cfg.family.isLine = true ∧ s.cfg.lineCheck = none :=
      hun.imp_left fun h => Bool.eq_false_iff.2 fun e => h (hchecks.1 e)
    split
    · rw [checkLine_unchecked (s := s.taken) (hun'.imp_right And.right), hrun]
    · rename_i hblock
      rw [checkBlock_unchecked (hun'.resolve_right fun h => hblock h.1), hrun]
  · rw [if_neg (by simp [hblock]), checkBlock_passed (s := s.taken) (hchecks.2 hchk) hcrc]
    exact runPayload_configured (s := s.taken.runCrc f.span) ht hg
  · have hraw : pendingFrame s b = s.rxbuf := if_pos hline
    rw [if_pos hline, hraw, checkLine_passed (s := s.taken) hlc (hchecks.2 hchk) hpass]
    exact runPayload_configured (s := s.taken) ht hg

end Sys2Proof.Machine
end

section
/-! PROOFS. Everything a step of any agent can do to the state, said once (60_exceptions.md R273): a port transaction
does acts of the receive path (`exec_acts`), every other move does acts of the environment. What both keep, every step
keeps (`step_keeps`). -/

namespace Sys2Proof.Machine

/-! ## The acts of the environment -/

/-- The sender stores a measurement and queues its message (60_exceptions.md R274). -/
def State.collect (s : State) (d : Nat) (v : Dev) (m : Bytes) : State :=
  { s with
    devs := s.devs.set d { v with meas := m }
    pending := s.pending ++ [(d, s.cfg.formatMeasurement { v with meas := m })] }

/-- The sender stamps the devices whose messages it has sent (R274). -/
def State.stampAll (s : State) (n : Nat) (ps : List (Nat × Bytes)) : State :=
  ps.foldl (fun t p => t.modifyDev p.1 fun d => { d with lastTx := some n }) s

theorem senderStamp_eq (s : State) :
    senderStamp s = { s.stampAll s.now s.pending with pending := [], senderPhase := .waiting } := rfl

/-- One elementary act of an agent other than the receive path. -/
inductive EnvAct : State → State → Prop where
  /-- The sender's clock advances. -/
  | clock (s : State) (dt : Nat) : EnvAct s { s with now := s.now + dt }
  /-- The sender takes the wake-up (10_state.md R49). -/
  | sleep (s : State) : EnvAct s { s with wake := false }
  /-- The sender goes on to another of its steps. -/
  | phase (s : State) (p : SenderPhase) : EnvAct s { s with senderPhase := p }
  /-- A due device is served. -/
  | collect (s : State) (d : Nat) (v : Dev) (m : Bytes) (hv : s.devs[d]? = some v) : EnvAct s (s.collect d v m)
  /-- The sender's messages are queued. -/
  | emit (s : State) (ms : List Bytes) : EnvAct s (s.emitAll ms)
  /-- A transmission is stamped, with a time that the clock has reached. -/
  | stamp (s : State) (d n : Nat) (hn : n ≤ s.now) : EnvAct s (s.modifyDev d fun v => { v with lastTx := some n })
  /-- Nothing is left to send. -/
  | settle (s : State) : EnvAct s { s with pending := [] }
  /-- The transport takes a message (R273). -/
  | transmit (s : State) : EnvAct s (transmitMove s)
  /-- The host's shutdown (R275). -/
  | shutdown (s : State) : EnvAct s (shutdownMove s)

/-- Acts of the environment one after another. -/
abbrev EnvActs : State → State → Prop := Relation.ReflTransGen EnvAct

/-- What every act of the environment keeps, such acts keep. -/
theorem EnvActs.keep {P : State → Prop} (hP : ∀ s t, EnvAct s t → P s → P t) {s t : State} (h : EnvActs s t)
    (hs : P s) : P t := by
  induction h with
  | refl => exact hs
  | tail _ a ih => exact hP _ _ a ih

theorem EnvAct.cfg_eq {s t : State} (a : EnvAct s t) : t.cfg = s.cfg := by cases a <;> rfl

/-! ## The sender's steps -/

/-- What serving one due device keeps, serving all of them keeps. -/
theorem serveDevices_keeps {P : State → Prop}
    (hP : ∀ s d v m, s.devs[d]? = some v → P s → P (s.collect d v m)) (ds : List Nat) (feed : List (Option Bytes))
    (s : State) (hs : P s) : P (serveDevices s ds feed) := by
  induction ds generalizing feed s with
  | nil => exact hs
  | cons d ds ih =>
    unfold serveDevices
    split
    · exact ih feed s hs
    · rename_i v hv
      split
      · split
        · exact hs
        · exact ih _ s hs
        · rename_i m feed'
          exact ih feed' (s.collect d v m) (hP s d v m hv hs)
      · exact ih feed s hs

theorem envActs_serveDevices (s : State) (ds : List Nat) (feed : List (Option Bytes)) :
    EnvActs s (serveDevices s ds feed) :=
  serveDevices_keeps (P := EnvActs s) (fun t d v m hv h => h.tail (.collect t d v m hv)) ds feed s .refl

theorem envActs_senderStep (feed : List (Option Bytes)) (s : State) : EnvActs s (senderStep feed s) := by
  unfold senderStep
  split
  · exact .single (.phase s _)
  split
  · exact ((Relation.ReflTransGen.single (.sleep s)).trans (envActs_serveDevices _ _ feed)).tail (.phase _ _)
  · exact .refl

theorem envActs_senderWrite (s : State) : EnvActs s (senderWrite s) :=
  (Relation.ReflTransGen.single (.emit s _)).tail (.phase _ _)

/-- Stamping leaves the clock alone, so that every stamp is a time it has reached. -/
theorem envActs_stampAll (n : Nat) (ps : List (Nat × Bytes)) (s : State) (hn : n ≤ s.now) :
    EnvActs s (s.stampAll n ps) := by
  induction ps generalizing s with
  | nil => exact .refl
  | cons p ps ih => exact .head (.stamp s p.1 n hn) (ih _ hn)

theorem envActs_senderStamp (s : State) : EnvActs s (senderStamp s) := by
  rw [senderStamp_eq]
  exact ((envActs_stampAll s.now s.pending s le_rfl).tail (.settle _)).tail (.phase _ .waiting)

theorem envActs_senderMove (dt : Nat) (feed : List (Option Bytes)) (s : State) : EnvActs s (senderMove dt feed s) := by
  unfold senderMove
  split
  · exact .head (.clock s dt) (envActs_senderStep feed _)
  · exact .head (.clock s dt) (envActs_senderWrite _)
  · exact .head (.clock s dt) (envActs_senderStamp _)
  · exact .refl

/-! ## A step -/

/-- A move with a next state runs an instruction, or is an agent's other than the receive path. -/
theorem stepMove_next {m : Move} {s t : State} (h : stepMove m s = .next t) :
    (∃ i, exec i s = .next t) ∨ t = s ∨ (∃ dt feed, t = senderMove dt feed s) ∨ t = transmitMove s ∨
      t = shutdownMove s := by
  cases m with
  | port p data =>
    simp only [stepMove] at h
    split at h
    · exact .inl ⟨_, h⟩
    · cases h
  | noByte => cases h; exact .inr (.inl rfl)
  | sender dt feed => cases h; exact .inr (.inr (.inl ⟨dt, feed, rfl⟩))
  | transmit => cases h; exact .inr (.inr (.inr (.inl rfl)))
  | shutdown => cases h; exact .inr (.inr (.inr (.inr rfl)))

theorem stepMove_acts {m : Move} {s t : State} (h : stepMove m s = .next t) : Acts s t ∨ EnvActs s t := by
  rcases stepMove_next h with ⟨i, hi⟩ | rfl | ⟨dt, feed, rfl⟩ | rfl | rfl
  · exact .inl (exec_acts hi)
  · exact .inr .refl
  · exact .inr (envActs_senderMove dt feed s)
  · exact .inr (.single (.transmit s))
  · exact .inr (.single (.shutdown s))

/-- A step that takes no move changes nothing; any other is a move on the state without it. -/
theorem step_next {s t : State} (h : step s = .next t) :
    t = s ∨ ∃ m rest, s.inbox = m :: rest ∧ stepMove m { s with inbox := rest } = .next t := by
  unfold step at h
  split at h
  · cases h; exact .inl rfl
  · exact .inr ⟨_, _, ‹_›, h⟩

/-- What taking a move, the acts of the receive path and the acts of the environment keep, every step keeps. -/
theorem step_keeps {P : State → Prop} (htake : ∀ s rest, P s → P { s with inbox := rest })
    (hact : ∀ s t, Act s t → P s → P t) (henv : ∀ s t, EnvAct s t → P s → P t) {s t : State} (h : step s = .next t)
    (hs : P s) : P t := by
  rcases step_next h with rfl | ⟨m, rest, -, hm⟩
  · exact hs
  · have hs' := htake s rest hs
    rcases stepMove_acts hm with ha | he
    · exact ha.keep hact hs'
    · exact he.keep henv hs'

/-! ## The records under an act -/

/-- A view of the records that a change of one record does not touch. -/
theorem map_modify_eq {β : Type} {g : Dev → β} {f : Dev → Dev} (h : ∀ v, g (f v) = g v) (l : List Dev) (d : Nat) :
    (l.modify d f).map g = l.map g := by
  apply List.ext_getElem?
  intro i
  by_cases hi : d = i <;> simp [hi, Function.comp_def, h]

theorem map_set_eq {β : Type} {g : Dev → β} {l : List Dev} {d : Nat} {v w : Dev} (hv : l[d]? = some v)
    (hw : g w = g v) : (l.set d w).map g = l.map g := by
  obtain ⟨hd, rfl⟩ := List.getElem?_eq_some_iff.1 hv
  rw [List.map_set, hw, ← List.getElem_map g (h := by simpa using hd), List.set_getElem_self]

theorem forall_mem_modify {P : Dev → Prop} {f : Dev → Dev} (hf : ∀ v, P v → P (f v)) {l : List Dev} (d : Nat)
    (h : ∀ v ∈ l, P v) : ∀ v ∈ l.modify d f, P v := by
  intro v hv
  obtain ⟨i, hi⟩ := List.mem_iff_getElem?.1 hv
  rw [List.getElem?_modify] at hi
  obtain ⟨w, hw, rfl⟩ := Option.map_eq_some_iff.1 hi
  have hPw := h w (List.mem_of_getElem? hw)
  split
  · exact hf w hPw
  · exact hPw

/-- A view that no command changes. -/
theorem Act.map_devs {β : Type} {g : Dev → β} {s t : State} (a : Act s t)
    (hcmd : ∀ f, DevChange s.cfg f → ∀ v, g (f v) = g v) (hmove : ∀ v n, g { v with address := n } = g v) :
    t.devs.map g = s.devs.map g := by
  cases a with
  | quiet d f hf => exact map_modify_eq (hcmd f hf) _ _
  | loud d f hf => exact map_modify_eq (hcmd f hf) _ _
  | move d v new => exact map_modify_eq (hmove · new) _ _
  | _ => rfl

/-- A view that reads neither field of the sender. -/
theorem EnvAct.map_devs {β : Type} {g : Dev → β} {s t : State} (a : EnvAct s t)
    (hmeas : ∀ v m, g { v with meas := m } = g v) (hstamp : ∀ v n, g { v with lastTx := n } = g v) :
    t.devs.map g = s.devs.map g := by
  cases a with
  | collect d v m hv => exact map_set_eq hv (hmeas v m)
  | stamp d n => exact map_modify_eq (hstamp · _) _ _
  | _ => rfl

/-- Two lists of records with one view agree on it record by record. -/
theorem eq_of_map_eq {β : Type} {g : Dev → β} {l k : List Dev} (h : k.map g = l.map g) {d : Nat} {v w : Dev}
    (hv : l[d]? = some v) (hw : k[d]? = some w) : g w = g v := by
  have hd := congrArg (·[d]?) h
  simpa [hv, hw] using hd

end Sys2Proof.Machine
end

section
/-! PROOFS. What every step keeps: the statements O53, O54, O55 and O57; and O20, which reads the targets off the
invariant. -/

namespace Sys2Proof.Machine

/-! ## The address table and the records (10_state.md R47) -/

/-- The table invariant looks at the addresses of the records only. -/
theorem State.tableOk_iff {s : State} :
    s.TableOk ↔ tabWf s.atab ∧ ∀ a d, tabGet s.atab a = some d ↔ (s.devs.map (·.address))[d]? = some a := by
  simp [State.TableOk]

/-- The move of a device to a free address, on the table and on the list of addresses (44_commands.md R222). -/
theorem tabGet_move {atab : List (Nat × Nat)} {addrs : List Nat} {d old new : Nat}
    (h : ∀ a e, tabGet atab a = some e ↔ addrs[e]? = some a) (hold : addrs[d]? = some old)
    (hfree : tabGet atab new = none) (a e : Nat) :
    tabGet (tabSet (tabDel atab old) new d) a = some e ↔ (addrs.set d new)[e]? = some a := by
  have hd : d < addrs.length := (List.getElem?_eq_some_iff.1 hold).1
  have huniq : ∀ b, addrs[d]? = some b → old = b := fun b hb => Option.some.inj (hold.symm.trans hb)
  rw [List.getElem?_set]
  by_cases ha : a = new
  · subst ha
    rw [tabGet_tabSet_same]
    by_cases he : d = e
    · simp [he, he ▸ hd]
    · simp [he, ← h, hfree]
  · rw [tabGet_tabSet_other _ _ ha]
    by_cases hao : a = old
    · subst hao
      rw [tabGet_tabDel_same]
      by_cases he : d = e
      · simp [he, Ne.symm ha]
      · simp [he, ← h, (h a d).2 hold]
    · rw [tabGet_tabDel_other _ hao, h]
      by_cases he : d = e
      · subst he
        simpa [hd, Ne.symm ha] using fun hb => hao (huniq a hb).symm
      · simp [he]

theorem State.TableOk.congr {s t : State} (h : s.TableOk) (ha : t.atab = s.atab)
    (hd : t.devs.map (·.address) = s.devs.map (·.address)) : t.TableOk := by
  rw [State.tableOk_iff] at h ⊢
  rwa [ha, hd]

theorem State.TableOk.moveDev {s : State} {d new : Nat} {v : Dev} (h : s.TableOk) (hv : s.devs[d]? = some v)
    (hfree : tabGet s.atab new = none) : (s.moveDev d v.address new).TableOk := by
  rw [State.tableOk_iff] at h ⊢
  obtain ⟨hwf, hget⟩ := h
  have haddrs : (s.devs.modify d fun w => { w with address := new }).map (·.address) =
      (s.devs.map (·.address)).set d new := by
    rw [modify_eq_set _ hv, List.map_set]
  refine ⟨tabWf_tabSet _ _ (tabWf_tabDel _ hwf), ?_⟩
  rw [State.moveDev_devs, haddrs]
  exact tabGet_move hget (by simp [hv]) hfree

theorem Act.tableOk {s t : State} (a : Act s t) (h : s.TableOk) : t.TableOk := by
  cases a with
  | quiet d f hf => exact h.congr rfl (map_modify_eq hf.address _ _)
  | loud d f hf => exact h.congr rfl (map_modify_eq hf.address _ _)
  | move d v new hv hn hb hfree => exact h.moveDev hv hfree
  | _ => exact h

theorem EnvAct.tableOk {s t : State} (a : EnvAct s t) (h : s.TableOk) : t.TableOk := by
  have hatab : t.atab = s.atab := by cases a <;> rfl
  exact h.congr hatab (a.map_devs (fun _ _ => rfl) fun _ _ => rfl)

/-! ## The receive buffer (R23, R24; 41_framing.md R134) -/

theorem Act.rxOk {s t : State} (a : Act s t) (hmax : 1 ≤ s.cfg.rxbufMax) (h : s.RxOk) : t.RxOk := by
  obtain ⟨hlen, hterm, hdisc⟩ := h
  cases a with
  | clear => exact ⟨Nat.zero_le _, by simp, by simp⟩
  | store b ht hd hl =>
    refine ⟨?_, fun c hc => ?_, by simp⟩
    · simp only [List.length_append, List.length_singleton]
      omega
    · rcases List.mem_append.1 hc with hc | hc
      · exact hterm c hc
      · rwa [List.mem_singleton.1 hc]
  | skip hr => exact ⟨Nat.zero_le _, by simp, fun _ => ⟨rfl, hr⟩⟩
  | restart b ht hd => exact ⟨hmax, by simpa using ht, by simp [hd]⟩
  | _ => exact ⟨hlen, hterm, hdisc⟩

theorem EnvAct.rxOk {s t : State} (a : EnvAct s t) (h : s.RxOk) : t.RxOk := by cases a <;> exact h

/-! ## The records (R27, R46) -/

theorem length_eq_of_map_eq {β : Type} {g : Dev → β} {l k : List Dev} (h : k.map g = l.map g) :
    k.length = l.length := by
  simpa using congrArg List.length h

theorem Act.length_devs {s t : State} (a : Act s t) : t.devs.length = s.devs.length :=
  length_eq_of_map_eq (a.map_devs (g := Dev.serial) (fun _ hf => hf.serial) fun _ _ => rfl)

theorem EnvAct.length_devs {s t : State} (a : EnvAct s t) : t.devs.length = s.devs.length :=
  length_eq_of_map_eq (a.map_devs (g := Dev.serial) (fun _ _ => rfl) fun _ _ => rfl)

theorem Act.devsOk {s t : State} (a : Act s t) (h : s.DevsOk) : t.DevsOk := by
  obtain ⟨hlen, hlegal⟩ := h
  refine ⟨by rw [a.length_devs, a.cfg_eq, hlen], ?_⟩
  rw [a.cfg_eq]
  cases a with
  | quiet d f hf => exact forall_mem_modify hf.legal d hlegal
  | loud d f hf => exact forall_mem_modify hf.legal d hlegal
  | move d v new hv hn hb =>
    refine forall_mem_modify (fun w hw => ?_) d hlegal
    obtain ⟨hint, hfmt, hfil, hrh, hun, -, hmask, hcal⟩ := hw
    exact ⟨hint, hfmt, hfil, hrh, hun, hb, hmask, hcal⟩
  | _ => exact hlegal

theorem EnvAct.devsOk {s t : State} (a : EnvAct s t) (h : s.DevsOk) : t.DevsOk := by
  obtain ⟨hlen, hlegal⟩ := h
  refine ⟨by rw [a.length_devs, a.cfg_eq, hlen], ?_⟩
  rw [a.cfg_eq]
  cases a with
  | collect d v m hv =>
    intro w hw
    rcases List.mem_or_eq_of_mem_set hw with hw | rfl
    · exact hlegal w hw
    · exact hlegal v (List.mem_of_getElem? hv)
  | stamp d n hn => refine forall_mem_modify (fun _ hv => ?_) d hlegal; exact hv
  | _ => exact hlegal

/-! ## The sender (60_exceptions.md R274) -/

/-- What is pending is of devices that exist, and no timestamp is ahead of the sender's clock: the part of `SenderOk`
that holds between the acts of one sender step too. -/
def State.SendsSound (s : State) : Prop :=
  (∀ p ∈ s.pending, p.1 < s.devs.length) ∧ ∀ v ∈ s.devs, ∀ t, v.lastTx = some t → t ≤ s.now

/-- Nothing is pending while the sender waits or after it has exited: the part that holds after whole steps. -/
def State.IdleOk (s : State) : Prop := s.senderPhase = .waiting ∨ s.senderPhase = .exited → s.pending = []

theorem Act.sendsSound {s t : State} (a : Act s t) (h : s.SendsSound) : t.SendsSound := by
  obtain ⟨hpend, htime⟩ := h
  have hp : t.pending = s.pending := by cases a <;> rfl
  have hn : t.now = s.now := by cases a <;> rfl
  refine ⟨by rwa [hp, a.length_devs], ?_⟩
  rw [hn]
  cases a with
  | quiet d f hf => exact forall_mem_modify (fun v hv => by rwa [hf.lastTx v]) d htime
  | loud d f hf => exact forall_mem_modify (fun v hv => by rwa [hf.lastTx v]) d htime
  | move d v new => refine forall_mem_modify (fun _ hv => ?_) d htime; exact hv
  | _ => exact htime

theorem EnvAct.sendsSound {s t : State} (a : EnvAct s t) (h : s.SendsSound) : t.SendsSound := by
  obtain ⟨hpend, htime⟩ := h
  refine ⟨?_, ?_⟩
  · rw [a.length_devs]
    cases a with
    | collect d v m hv =>
      intro p hp
      rcases List.mem_append.1 hp with hp | hp
      · exact hpend p hp
      · rw [List.mem_singleton.1 hp]
        exact (List.getElem?_eq_some_iff.1 hv).1
    | settle => simp
    | _ => exact hpend
  · cases a with
    | clock dt => exact fun v hv n hvn => (htime v hv n hvn).trans (Nat.le_add_right _ _)
    | collect d v m hv =>
      intro w hw
      rcases List.mem_or_eq_of_mem_set hw with hw | rfl
      · exact htime w hw
      · exact htime v (List.mem_of_getElem? hv)
    | stamp d n hn => exact forall_mem_modify (fun _ _ k hk => Option.some.inj hk ▸ hn) d htime
    | _ => exact htime

theorem Act.idleOk {s t : State} (a : Act s t) (h : s.IdleOk) : t.IdleOk := by cases a <;> exact h

theorem idleOk_afterServe (s : State) : s.afterServe.IdleOk := by
  unfold State.IdleOk State.afterServe
  by_cases hp : s.pending = [] <;> simp [hp]

theorem idleOk_senderStep {s : State} (feed : List (Option Bytes)) (hw : s.senderPhase = .waiting) (h : s.IdleOk) :
    (senderStep feed s).IdleOk := by
  unfold senderStep
  split
  · exact fun _ => h (.inl hw)
  split
  · exact idleOk_afterServe _
  · exact h

theorem idleOk_senderMove {s : State} (dt : Nat) (feed : List (Option Bytes)) (h : s.IdleOk) :
    (senderMove dt feed s).IdleOk := by
  unfold senderMove
  split
  · exact idleOk_senderStep feed ‹_› h
  · simp [State.IdleOk, senderWrite]
  · exact fun _ => rfl
  · exact h

theorem step_idleOk {s t : State} (h : step s = .next t) (hs : s.IdleOk) : t.IdleOk := by
  rcases step_next h with rfl | ⟨m, rest, -, hm⟩
  · exact hs
  · rcases stepMove_next hm with ⟨i, hi⟩ | rfl | ⟨dt, feed, rfl⟩ | rfl | rfl
    · exact (exec_acts hi).keep (fun _ _ a => a.idleOk) hs
    · exact hs
    · exact idleOk_senderMove dt feed hs
    · exact hs
    · exact hs

/-! ## O53 -/

/-- The invariant less `IdleOk`, which the acts of a sender step break and its end restores. -/
structure State.ActInv (s : State) : Prop where
  cfg : s.cfg.wf
  rx : s.RxOk
  table : s.TableOk
  devs : s.DevsOk
  sends : s.SendsSound

theorem State.inv_iff {s : State} : s.Inv ↔ s.ActInv ∧ s.IdleOk :=
  ⟨fun ⟨hcfg, hrx, htab, hdevs, hidle, hsends⟩ => ⟨⟨hcfg, hrx, htab, hdevs, hsends⟩, hidle⟩,
    fun ⟨⟨hcfg, hrx, htab, hdevs, hsends⟩, hidle⟩ => ⟨hcfg, hrx, htab, hdevs, hidle, hsends⟩⟩

theorem Act.actInv {s t : State} (a : Act s t) (h : s.ActInv) : t.ActInv where
  cfg := a.cfg_eq ▸ h.cfg
  rx := by
    obtain ⟨-, hmax, -⟩ := h.cfg
    exact a.rxOk hmax h.rx
  table := a.tableOk h.table
  devs := a.devsOk h.devs
  sends := a.sendsSound h.sends

theorem EnvAct.actInv {s t : State} (a : EnvAct s t) (h : s.ActInv) : t.ActInv where
  cfg := a.cfg_eq ▸ h.cfg
  rx := a.rxOk h.rx
  table := a.tableOk h.table
  devs := a.devsOk h.devs
  sends := a.sendsSound h.sends

/-- Settles O53: every act of every agent keeps `ActInv`, and every whole step keeps `IdleOk`. -/
theorem stepKeepsInvariant : Obligations.StepKeepsInvariant := by
  intro s t hs h
  rw [State.inv_iff] at hs ⊢
  obtain ⟨hact, hidle⟩ := hs
  refine ⟨step_keeps (P := State.ActInv) (fun s rest hs => ?_) (fun _ _ a => a.actInv) (fun _ _ a => a.actInv) h hact,
    step_idleOk h hidle⟩
  exact ⟨hs.cfg, hs.rx, hs.table, hs.devs, hs.sends⟩

/-! ## O20 -/

/-- Different addresses of the table map to different devices. -/
theorem State.TableOk.injective {s : State} (h : s.TableOk) {a b d : Nat} (ha : tabGet s.atab a = some d)
    (hb : tabGet s.atab b = some d) : a = b := by
  rw [State.tableOk_iff] at h
  obtain ⟨-, hget⟩ := h
  exact Option.some.inj (((hget a d).1 ha).symm.trans ((hget b d).1 hb))

theorem State.TableOk.lt_length {s : State} (h : s.TableOk) {a d : Nat} (ha : tabGet s.atab a = some d) :
    d < s.devs.length := by
  obtain ⟨-, hget⟩ := h
  obtain ⟨v, hv, -⟩ := (hget a d).1 ha
  exact (List.getElem?_eq_some_iff.1 hv).1

theorem targets_nodup {s : State} (a : Option Nat) (h : s.TableOk) : (targets s a).Nodup := by
  unfold targets
  dsimp only
  split
  · split
    · exact Option.toList_nodup _
    · exact List.nodup_range.filterMap fun _ _ _ ha hb => h.injective ha hb
    · exact List.nodup_singleton _
  split
  · exact List.nodup_nil
  · exact Option.toList_nodup _

/-- Every target is a device of the table, or `DEFAULT_DEV`. -/
theorem mem_targets {s : State} {a : Option Nat} {d : Nat} (h : d ∈ targets s a) :
    (∃ b, tabGet s.atab b = some d) ∨ s.cfg.unaddressedTarget = .defaultDev ∧ d = s.cfg.defaultDev := by
  unfold targets at h
  dsimp only at h
  split at h
  · split at h
    · exact .inl ⟨0, Option.mem_toList.1 h⟩
    · obtain ⟨b, -, hb⟩ := List.mem_filterMap.1 h
      exact .inl ⟨b, hb⟩
    · exact .inr ⟨‹_›, List.mem_singleton.1 h⟩
  split at h
  · cases h
  · exact .inl ⟨_, Option.mem_toList.1 h⟩

/-- Settles O20: the table is injective and lists devices that exist, and R292 has `DEFAULT_DEV` exist. -/
theorem targetsAreGoodUnderInvariant : Obligations.TargetsAreGoodUnderInvariant := by
  intro s a hs hne
  refine ⟨hne, targets_nodup a hs.table, fun d hd => ?_⟩
  rcases mem_targets hd with ⟨b, hb⟩ | ⟨hu, rfl⟩
  · exact hs.table.lt_length hb
  · obtain ⟨-, -, -, -, -, hdflt, -⟩ := hs.cfg
    obtain ⟨hlen, -⟩ := hs.devs
    exact hlen ▸ hdflt hu

/-! ## O54 -/

/-- The identity fields of a record (10_state.md R28, R29). -/
def identityOf (v : Dev) : Bytes × Bytes := (v.serial, v.model)

theorem DevChange.identityOf_eq {cfg : Config} {f : Dev → Dev} (hf : DevChange cfg f) (v : Dev) :
    identityOf (f v) = identityOf v := Prod.ext (hf.serial v) (hf.model v)

/-- Settles O54: no act of any agent changes the configuration or the list of the records' identities. -/
theorem stepKeepsConfigurationAndIdentity : Obligations.StepKeepsConfigurationAndIdentity := by
  intro s t h
  have hcfg : t.cfg = s.cfg :=
    step_keeps (P := fun u => u.cfg = s.cfg) (fun _ _ hu => hu) (fun _ _ a hu => a.cfg_eq.trans hu)
      (fun _ _ a hu => a.cfg_eq.trans hu) h rfl
  have hids : t.devs.map identityOf = s.devs.map identityOf :=
    step_keeps (P := fun u => u.devs.map identityOf = s.devs.map identityOf) (fun _ _ hu => hu)
      (fun _ _ a hu => (a.map_devs (fun _ hf => hf.identityOf_eq) fun _ _ => rfl).trans hu)
      (fun _ _ a hu => (a.map_devs (fun _ _ => rfl) fun _ _ => rfl).trans hu) h rfl
  exact ⟨hcfg, length_eq_of_map_eq hids, fun _ _ _ hv hw => Prod.mk.inj (eq_of_map_eq hids hv hw)⟩

/-! ## O55 -/

/-- The fields that the sender alone writes (10_state.md R44, R45). -/
def senderFieldsOf (v : Dev) : Bytes × Option Nat := (v.meas, v.lastTx)

theorem DevChange.senderFieldsOf_eq {cfg : Config} {f : Dev → Dev} (hf : DevChange cfg f) (v : Dev) :
    senderFieldsOf (f v) = senderFieldsOf v := Prod.ext (hf.meas v) (hf.lastTx v)

/-- Settles O55: no act of the receive path changes the list of the records' measurements and timestamps. -/
theorem onlyTheSenderWritesMeasAndLastTx : Obligations.OnlyTheSenderWritesMeasAndLastTx := by
  intro i s t h d v w hv hw
  have hfields : t.devs.map senderFieldsOf = s.devs.map senderFieldsOf :=
    (exec_acts h).keep (P := fun u => u.devs.map senderFieldsOf = s.devs.map senderFieldsOf)
      (fun _ _ a hu => (a.map_devs (fun _ hf => hf.senderFieldsOf_eq) fun _ _ => rfl).trans hu) rfl
  exact Prod.mk.inj (eq_of_map_eq hfields hv hw)

/-! ## O57 -/

/-- A later state: the log longer at its end, the marks of R50 and R53 not cleared. -/
def State.MarksGrow (s t : State) : Prop :=
  s.outlog <+: t.outlog ∧ (s.shutdown = true → t.shutdown = true) ∧ (s.refused = true → t.refused = true)

theorem State.MarksGrow.refl (s : State) : s.MarksGrow s := ⟨List.prefix_rfl, id, id⟩

theorem State.MarksGrow.trans {s t u : State} (h : s.MarksGrow t) (g : t.MarksGrow u) : s.MarksGrow u := by
  obtain ⟨hlog, hshut, href⟩ := h
  obtain ⟨glog, gshut, gref⟩ := g
  exact ⟨hlog.trans glog, gshut ∘ hshut, gref ∘ href⟩

theorem Act.marksGrow {s t : State} (a : Act s t) : s.MarksGrow t := by
  cases a with
  | log e => exact ⟨List.prefix_append _ _, id, id⟩
  | refuse => exact ⟨List.prefix_rfl, id, fun _ => rfl⟩
  | _ => exact .refl s

theorem EnvAct.marksGrow {s t : State} (a : EnvAct s t) : s.MarksGrow t := by
  cases a with
  | shutdown => exact ⟨List.prefix_rfl, fun _ => rfl, id⟩
  | _ => exact .refl s

/-- Settles O57: only the acts `log`, `refuse` and `shutdown` write these fields, and they only add to them. -/
theorem logGrowsAndMarksStay : Obligations.LogGrowsAndMarksStay := by
  intro s t h
  obtain ⟨⟨l, hl⟩, hshut, href⟩ : s.MarksGrow t :=
    step_keeps (P := s.MarksGrow) (fun _ _ hu => hu) (fun _ _ a hu => hu.trans a.marksGrow)
      (fun _ _ a hu => hu.trans a.marksGrow) h (.refl s)
  exact ⟨⟨l, hl.symm⟩, hshut, href⟩

end Sys2Proof.Machine
end

section
/-! PROOFS. What an instruction does not read: the log (10_state.md R52) and the timestamps (60_exceptions.md R273).
`disguise` changes both in a state, and every operation of the receive path commutes with it. -/

namespace Sys2Proof.Machine

/-! ## The disguise -/

/-- The record of device `d` with its timestamp changed. -/
def restamped (f : Nat → Option Nat → Option Nat) (d : Nat) (v : Dev) : Dev := { v with lastTx := f d v.lastTx }

/-- The state with other entries before its log, and with each timestamp changed. -/
def State.disguise (l : List LogEntry) (f : Nat → Option Nat → Option Nat) (s : State) : State :=
  { s with
    outlog := l ++ s.outlog
    devs := s.devs.mapIdx (restamped f) }

theorem mapIdx_restamped_same (devs : List Dev) : devs.mapIdx (restamped fun _ t => t) = devs := by
  apply List.ext_getElem?
  intro i
  cases h : devs[i]? <;> simp [h, restamped]

theorem State.withLogBefore_eq_disguise (l : List LogEntry) : (·.withLogBefore l) = State.disguise l fun _ t => t := by
  funext s
  simp only [State.withLogBefore, State.disguise, mapIdx_restamped_same]

theorem State.withLastTx_eq_disguise (f : Nat → Option Nat) :
    (·.withLastTx f) = State.disguise [] fun d _ => f d := rfl

section
variable (l : List LogEntry) (f : Nat → Option Nat → Option Nat) (s : State)

@[simp] theorem State.disguise_cfg : (s.disguise l f).cfg = s.cfg := rfl
@[simp] theorem State.disguise_rxbuf : (s.disguise l f).rxbuf = s.rxbuf := rfl
@[simp] theorem State.disguise_rxdisc : (s.disguise l f).rxdisc = s.rxdisc := rfl
@[simp] theorem State.disguise_frame : (s.disguise l f).frame = s.frame := rfl
@[simp] theorem State.disguise_atab : (s.disguise l f).atab = s.atab := rfl
@[simp] theorem State.disguise_shutdown : (s.disguise l f).shutdown = s.shutdown := rfl

@[simp] theorem State.disguise_getElem? (d : Nat) :
    (s.disguise l f).devs[d]? = s.devs[d]?.map (restamped f d) := by
  simp [State.disguise]

@[simp] theorem restamped_chkEn (d : Nat) (v : Dev) : (restamped f d v).chkEn = v.chkEn := rfl
@[simp] theorem restamped_address (d : Nat) (v : Dev) : (restamped f d v).address = v.address := rfl
@[simp] theorem restamped_blockView (d : Nat) (v : Dev) : (restamped f d v).blockView = v.blockView := rfl

/-! ## The operations of the state -/

@[simp] theorem State.emitAll_disguise (ms : List Bytes) : (s.disguise l f).emitAll ms = (s.emitAll ms).disguise l f :=
  rfl

@[simp] theorem State.log_disguise (o : OutcomeCode) (addr : Option Nat) (kind : Option Kind) :
    (s.disguise l f).log o addr kind = (s.log o addr kind).disguise l f := by
  simp [State.log, State.disguise]

@[simp] theorem State.dropFrame_disguise : (s.disguise l f).dropFrame = s.dropFrame.disguise l f := rfl

@[simp] theorem State.setRx_disguise (buf : Bytes) (disc : Bool) :
    (s.disguise l f).setRx buf disc = (s.setRx buf disc).disguise l f := rfl

@[simp] theorem State.raise_disguise (o : OutcomeCode) (addr : Option Nat) :
    (s.disguise l f).raise o addr = (s.raise o addr).disguise l f := by
  simp [State.raise]

@[simp] theorem State.runReplyCrc_disguise (p : Bytes) :
    (s.disguise l f).runReplyCrc p = (s.runReplyCrc p).disguise l f := by
  unfold State.runReplyCrc
  rw [State.disguise_cfg]
  split <;> rfl

@[simp] theorem State.runVerifyCrc_disguise (h span : Bytes) :
    (s.disguise l f).runVerifyCrc h span = (s.runVerifyCrc h span).disguise l f := by
  unfold State.runVerifyCrc
  split <;> rfl

/-- A change of a record that neither reads nor writes the timestamp. -/
def IgnoresLastTx (g : Dev → Dev) : Prop := ∀ v t, g { v with lastTx := t } = { g v with lastTx := t }

theorem IgnoresLastTx.lastTx_eq {g : Dev → Dev} (hg : IgnoresLastTx g) (v : Dev) : (g v).lastTx = v.lastTx :=
  show (g { v with lastTx := v.lastTx }).lastTx = v.lastTx by rw [hg]

theorem ignoresLastTx_setNum (fld : NumField) (n : Nat) : IgnoresLastTx (·.setNum fld n) := by
  intro v t; cases fld <;> rfl

theorem ignoresLastTx_setText (fld : TextField) (t : Bytes) : IgnoresLastTx (·.setText fld t) := by
  intro v t; cases fld <;> rfl

theorem IgnoresLastTx.restamped {g : Dev → Dev} (hg : IgnoresLastTx g) (d : Nat) (v : Dev) :
    g (restamped f d v) = restamped f d (g v) := by
  rw [Machine.restamped, hg, Machine.restamped, hg.lastTx_eq]

theorem modify_mapIdx_restamped {g : Dev → Dev} (hg : IgnoresLastTx g) (devs : List Dev) (d : Nat) :
    (devs.mapIdx (restamped f)).modify d g = (devs.modify d g).mapIdx (restamped f) := by
  apply List.ext_getElem?
  intro i
  by_cases hi : d = i <;> simp [hi, Function.comp_def, hg.restamped]

theorem State.modifyDev_disguise {g : Dev → Dev} (hg : IgnoresLastTx g) (d : Nat) :
    (s.disguise l f).modifyDev d g = (s.modifyDev d g).disguise l f := by
  simp only [State.modifyDev, State.disguise, modify_mapIdx_restamped f hg]

theorem State.moveDev_disguise (d old new : Nat) :
    (s.disguise l f).moveDev d old new = (s.moveDev d old new).disguise l f := by
  have hg : IgnoresLastTx fun v => { v with address := new } := fun _ _ => rfl
  simp only [State.moveDev, State.disguise, modify_mapIdx_restamped f hg]

@[simp] theorem targets_disguise (a : Option Nat) : targets (s.disguise l f) a = targets s a := rfl

@[simp] theorem chkApplies_disguise (ts : List Nat) : chkApplies (s.disguise l f) ts = chkApplies s ts := by
  simp [chkApplies, Function.comp_def]

/-! ## The parts of a rule -/

variable (x : Ctx)

/-- A dispatch from a disguised state. -/
def Ctx.disguise (x : Ctx) : Ctx := x.onState (State.disguise l f)

@[simp] theorem Ctx.disguise_st : (x.disguise l f).st = x.st.disguise l f := rfl

theorem Ctx.onState_disguise {g : State → State} (hg : g (x.st.disguise l f) = (g x.st).disguise l f) :
    (x.disguise l f).onState g = (x.onState g).disguise l f := by
  simp only [Ctx.onState, Ctx.disguise, hg]

theorem Ctx.modifyDev_disguise {g : Dev → Dev} (hg : IgnoresLastTx g) (d : Nat) :
    (x.disguise l f).onState (·.modifyDev d g) = (x.onState (·.modifyDev d g)).disguise l f :=
  x.onState_disguise l f (x.st.modifyDev_disguise l f hg d)

@[simp] theorem Ctx.wakeUp_disguise :
    (x.disguise l f).onState (·.wakeUp) = (x.onState (·.wakeUp)).disguise l f := rfl

@[simp] theorem Ctx.reply_disguise (addr : Nat) (p : Bytes) :
    (x.disguise l f).reply addr p = (x.reply addr p).disguise l f := by
  simp [Ctx.reply, Ctx.disguise, Ctx.onState]

@[simp] theorem Ctx.setReply_disguise (c : Cmd) (d : Nat) :
    (x.disguise l f).setReply c d = (x.setReply c d).disguise l f := by
  unfold Ctx.setReply
  rw [Ctx.disguise_st, State.disguise_getElem?, State.disguise_cfg]
  cases x.st.devs[d]? with
  | none => rfl
  | some v =>
    dsimp only [Option.map_some]
    rw [restamped_blockView]
    cases x.st.cfg.setReply c v.blockView with
    | none => rfl
    | some r => exact x.reply_disguise l f v.address r

@[simp] theorem Ctx.applyNum_disguise (d : Nat) (fld : NumField) (bound : Option Nat) (p : Param) :
    (x.disguise l f).applyNum d fld bound p = (x.applyNum d fld bound p).disguise l f := by
  cases p with
  | keep => rfl
  | value n =>
    simp only [Ctx.applyNum, Ctx.disguise_st, State.disguise_cfg,
      x.modifyDev_disguise l f (ignoresLastTx_setNum fld n)]
    split
    · split <;> rfl
    · rfl

@[simp] theorem Ctx.applyMask_disguise (d : Nat) (p : Param) :
    (x.disguise l f).applyMask d p = (x.applyMask d p).disguise l f := by
  cases p with
  | keep => rfl
  | value n =>
    have hg : IgnoresLastTx fun v => { v with fieldMask := n } := fun _ _ => rfl
    simp only [Ctx.applyMask, Ctx.disguise_st, State.disguise_cfg, x.modifyDev_disguise l f hg]
    split <;> rfl

@[simp] theorem Ctx.applyText_disguise (d : Nat) (fld : TextField) (t : Option Bytes) :
    (x.disguise l f).applyText d fld t = (x.applyText d fld t).disguise l f := by
  cases t with
  | none => rfl
  | some t => exact x.modifyDev_disguise l f (ignoresLastTx_setText fld t) d

@[simp] theorem Ctx.applyEntry_disguise (c : Cmd) (d i : Nat) (e : SchemaEntry) :
    (x.disguise l f).applyEntry c d i e = (x.applyEntry c d i e).disguise l f := by
  cases e <;> simp [Ctx.applyEntry]

@[simp] theorem Ctx.applySchema_disguise (c : Cmd) (d i : Nat) (es : List SchemaEntry) :
    (x.disguise l f).applySchema c d i es = (x.applySchema c d i es).disguise l f := by
  induction es generalizing i x with
  | nil => rfl
  | cons e es ih => rw [Ctx.applySchema, Ctx.applyEntry_disguise, ih, Ctx.applySchema]

theorem Ctx.finish_disguise (c : Cmd) : (x.disguise l f).finish c = (x.finish c).disguise l f :=
  congrArg State.dropFrame ((x.st.emitAll x.replies).log_disguise l f _ _ _)

/-! ## The rules -/

theorem aSetRule_disguise (c : Cmd) (d : Nat) : aSetRule c d (x.disguise l f) = (aSetRule c d x).disguise l f := by
  simp [aSetRule]

theorem aQueryRule_disguise (d : Nat) : aQueryRule d (x.disguise l f) = (aQueryRule d x).disguise l f := by
  unfold aQueryRule
  rw [Ctx.disguise_st, State.disguise_getElem?]
  cases x.st.devs[d]? with
  | none => rfl
  | some v => exact x.reply_disguise l f v.address _

theorem nAddrRule_disguise (c : Cmd) (several : Bool) (d : Nat) :
    nAddrRule c several d (x.disguise l f) = (nAddrRule c several d x).disguise l f := by
  unfold nAddrRule
  rw [Ctx.disguise_st, State.disguise_getElem?, State.disguise_cfg, State.disguise_atab]
  split
  · rfl
  split
  · rfl
  cases x.st.devs[d]? with
  | none => rfl
  | some v =>
    dsimp only [Option.map_some]
    rw [restamped_address]
    split
    · rfl
    split
    · exact x.setReply_disguise l f c d
    split
    · rfl
    · rw [x.onState_disguise l f (x.st.moveDev_disguise l f d v.address _), Ctx.setReply_disguise]

theorem queryRule_disguise (c : Cmd) (d : Nat) : queryRule c d (x.disguise l f) = (queryRule c d x).disguise l f := by
  unfold queryRule
  rw [Ctx.disguise_st, State.disguise_getElem?]
  cases x.st.devs[d]? with
  | none => rfl
  | some v => exact x.reply_disguise l f v.address _

theorem setRule_disguise (c : Cmd) (schema : List SchemaEntry) (d : Nat) :
    setRule c schema d (x.disguise l f) = (setRule c schema d x).disguise l f := by
  simp [setRule]

theorem maskRule_disguise (c : Cmd) (d : Nat) : maskRule c d (x.disguise l f) = (maskRule c d x).disguise l f := by
  simp [maskRule]

theorem formRule_disguise (c : Cmd) (d : Nat) : formRule c d (x.disguise l f) = (formRule c d x).disguise l f := by
  unfold formRule
  rw [Ctx.disguise_st, State.disguise_cfg]
  cases x.st.cfg.compileFormat c.args.rawtail with
  | none => exact x.reject.setReply_disguise l f c d
  | some p =>
    dsimp only
    rw [x.modifyDev_disguise l f (fun _ _ => rfl), Ctx.setReply_disguise]

theorem calRule_disguise (c : Cmd) (d : Nat) : calRule c d (x.disguise l f) = (calRule c d x).disguise l f := by
  unfold calRule
  rw [Ctx.disguise_st, State.disguise_getElem?, State.disguise_cfg]
  cases x.st.devs[d]? with
  | none => rfl
  | some v =>
    dsimp only [Option.map_some]
    have hpin : pinOk x.st.cfg c (restamped f d v) = pinOk x.st.cfg c v := rfl
    rw [hpin]
    split
    · split
      · rw [x.modifyDev_disguise l f (fun _ _ => rfl), Ctx.setReply_disguise]
      · rfl
      · rfl
    · rfl

theorem modeRule_disguise (m : Mode) (d : Nat) : modeRule m d (x.disguise l f) = (modeRule m d x).disguise l f := by
  unfold modeRule Ctx.setMode
  rw [x.modifyDev_disguise l f (fun _ _ => rfl), Ctx.wakeUp_disguise]

theorem sendRule_disguise (d : Nat) : sendRule d (x.disguise l f) = (sendRule d x).disguise l f := by
  unfold sendRule
  rw [Ctx.disguise_st, State.disguise_getElem?]
  cases x.st.devs[d]? with
  | none => rfl
  | some v =>
    have hreply := x.reply_disguise l f v.address (x.st.cfg.formatMeasurement v.blockView)
    exact congrArg (Ctx.onState · (·.wakeUp)) hreply

/-! ## Dispatch (43_dispatch.md R192) -/

theorem foldl_disguise {rule : Nat → Ctx → Ctx}
    (hr : ∀ d x, rule d (x.disguise l f) = (rule d x).disguise l f) (ts : List Nat) :
    ts.foldl (fun x t => rule t x) (x.disguise l f) = (ts.foldl (fun x t => rule t x) x).disguise l f := by
  induction ts generalizing x with
  | nil => rfl
  | cons d ts ih => rw [List.foldl_cons, hr, ih, List.foldl_cons]

theorem dispatch_disguise {rule : Bool → Nat → Ctx → Ctx}
    (hr : ∀ b d x, rule b d (x.disguise l f) = (rule b d x).disguise l f) (c : Cmd) :
    dispatch c rule (s.disguise l f) = (dispatch c rule s).disguise l f := by
  unfold dispatch
  rw [targets_disguise]
  split
  · exact s.raise_disguise l f _ _
  · rename_i d ds _
    have hfold := foldl_disguise l f { st := s, oor := false, replies := [] } (hr (!ds.isEmpty)) (d :: ds)
    exact (congrArg (Ctx.finish · c) hfold).trans (Ctx.finish_disguise l f _ c)

theorem dispatchRefused_disguise (c : Cmd) :
    dispatchRefused c (s.disguise l f) = (dispatchRefused c s).disguise l f := by
  unfold dispatchRefused
  rw [targets_disguise]
  split
  · exact s.raise_disguise l f _ _
  · exact congrArg State.dropFrame ({ s with refused := true }.log_disguise l f _ _ _)

theorem dispatchClass_disguise (c : Cmd) : dispatchClass c (s.disguise l f) = (dispatchClass c s).disguise l f := by
  unfold dispatchClass
  rw [State.disguise_cfg]
  split
  · exact dispatchRefused_disguise l f s c
  · exact dispatch_disguise l f s (fun _ d x => setRule_disguise l f x c _ d) c
  · exact dispatch_disguise l f s (fun _ d x => maskRule_disguise l f x c d) c
  · exact dispatch_disguise l f s (fun _ d x => queryRule_disguise l f x c d) c
  · exact dispatch_disguise l f s (fun _ d x => modeRule_disguise l f x _ d) c

/-! ## The instructions -/

/-- A meaning that does not see the disguise: it gives the same result, disguised. -/
def Unseen (m : State → Result) : Prop := ∀ s : State, m (s.disguise l f) = mapNext (State.disguise l f) (m s)

variable {l f}

theorem Unseen.of_dispatch {rule : Bool → Nat → Ctx → Ctx}
    (hr : ∀ b d x, rule b d (x.disguise l f) = (rule b d x).disguise l f) (c : Cmd) :
    Unseen l f fun s => .next (dispatch c rule s) :=
  fun s => congrArg Host.Outcome.next (dispatch_disguise l f s hr c)

theorem unseen_aSet (a : Args) : Unseen l f (execASet a) :=
  .of_dispatch (fun _ d x => aSetRule_disguise l f x _ d) _

theorem unseen_aQuery (a : Args) : Unseen l f (execAQuery a) :=
  .of_dispatch (fun _ d x => aQueryRule_disguise l f x d) _

theorem unseen_nAddr (a : Args) : Unseen l f (execNAddr a) :=
  .of_dispatch (fun b d x => nAddrRule_disguise l f x _ b d) _

theorem unseen_get (a : Args) : Unseen l f (execGet a) :=
  .of_dispatch (fun _ d x => queryRule_disguise l f x _ d) _

theorem unseen_set (a : Args) : Unseen l f (execSet a) :=
  fun s => Unseen.of_dispatch (fun _ d x => setRule_disguise l f x _ s.cfg.setSchema d) _ s

theorem unseen_setnc (a : Args) : Unseen l f (execSetnc a) :=
  fun s => Unseen.of_dispatch (fun _ d x => setRule_disguise l f x _ s.cfg.setSchema d) _ s

theorem unseen_form (a : Args) : Unseen l f (execForm a) :=
  .of_dispatch (fun _ d x => formRule_disguise l f x _ d) _

theorem unseen_fmask (a : Args) : Unseen l f (execFmask a) :=
  .of_dispatch (fun _ d x => maskRule_disguise l f x _ d) _

theorem unseen_cal (a : Args) : Unseen l f (execCal a) :=
  .of_dispatch (fun _ d x => calRule_disguise l f x _ d) _

/-- START, RUN, STOP and POLL. -/
theorem unseen_mode (c : Cmd) (m : Mode) : Unseen l f fun s => .next (dispatch c (fun _ => modeRule m) s) :=
  .of_dispatch (fun _ d x => modeRule_disguise l f x m d) c

theorem unseen_send (a : Args) : Unseen l f (execSend a) :=
  .of_dispatch (fun _ d x => sendRule_disguise l f x d) _

/-- R, RESET and the configured keywords. -/
theorem unseen_class (c : Cmd) : Unseen l f fun s => .next (dispatchClass c s) :=
  fun s => congrArg Host.Outcome.next (dispatchClass_disguise l f s c)

theorem unseen_raise (o : OutcomeCode) (addr : Option Nat) : Unseen l f fun s => .next (s.raise o addr) :=
  fun s => congrArg Host.Outcome.next (s.raise_disguise l f o addr)

theorem unseen_execCmd (c : Cmd) : Unseen l f (execCmd c) := by
  intro s
  obtain ⟨kind, a⟩ := c
  cases kind with
  | autosend =>
    unfold execCmd
    dsimp only
    split
    · exact unseen_aQuery a s
    · exact unseen_aSet a s
  | addrReassign => exact unseen_nAddr a s
  | get => exact unseen_get a s
  | set => exact unseen_set a s
  | setnc => exact unseen_setnc a s
  | form => exact unseen_form a s
  | fmask => exact unseen_fmask a s
  | cal => exact unseen_cal a s
  | start => exact unseen_mode _ _ s
  | run => exact unseen_mode _ _ s
  | stop => exact unseen_mode _ _ s
  | poll => exact unseen_mode _ _ s
  | send => exact unseen_send a s
  | r => exact unseen_class _ s
  | reset => exact unseen_class _ s
  | configured n => exact unseen_class _ s

theorem unseen_runPayload (addr : Option Nat) (p : Bytes) : Unseen l f (runPayload addr p) := by
  intro s
  unfold runPayload
  rw [State.disguise_cfg]
  split
  · exact unseen_raise _ _ s
  · exact unseen_execCmd _ s

theorem unseen_checkLine (line : Bytes) (fr : Frame) (ts : List Nat) : Unseen l f (checkLine line fr ts) := by
  intro s
  unfold checkLine
  rw [State.disguise_cfg, chkApplies_disguise]
  split
  · exact unseen_runPayload _ _ s
  split
  · split
    · exact unseen_runPayload _ _ s
    · exact unseen_raise _ _ s
  · exact unseen_runPayload _ _ s

theorem unseen_checkBlock (fr : Frame) (ts : List Nat) : Unseen l f (checkBlock fr ts) := by
  intro s
  unfold checkBlock
  rw [chkApplies_disguise]
  split
  · dsimp only
    rw [State.disguise_cfg, State.runVerifyCrc_disguise]
    split
    · exact unseen_runPayload _ _ _
    · exact unseen_raise _ _ _
  · exact unseen_runPayload _ _ s

theorem unseen_frameStep (raw : Bytes) : Unseen l f (frameStep raw) := by
  intro s
  unfold frameStep
  rw [State.disguise_cfg]
  split
  · exact unseen_raise _ _ s
  rw [targets_disguise]
  split
  · exact unseen_raise _ _ s
  split
  · exact unseen_checkLine _ _ _ s
  · exact unseen_checkBlock _ _ s

theorem unseen_receiveTerminator (b : Byte) : Unseen l f (receiveTerminator b) := by
  intro s
  unfold receiveTerminator
  rw [State.disguise_cfg, State.disguise_rxdisc, State.disguise_rxbuf, State.setRx_disguise]
  split
  · rfl
  split
  · split
    · rfl
    · exact unseen_frameStep _ _
  · exact unseen_frameStep _ _

theorem overflow_disguise (b : Byte) (s : State) : overflow b (s.disguise l f) = (overflow b s).disguise l f := by
  unfold overflow
  rw [State.disguise_cfg, State.log_disguise]
  split <;> rfl

theorem receiveData_disguise (b : Byte) (s : State) :
    receiveData b (s.disguise l f) = (receiveData b s).disguise l f := by
  unfold receiveData
  rw [State.disguise_cfg, State.disguise_rxdisc, State.disguise_rxbuf]
  split
  · rfl
  split
  · exact overflow_disguise b s
  · rfl

theorem unseen_rxByte (b : Byte) : Unseen l f (execRxByte b) := by
  intro s
  unfold execRxByte
  rw [State.disguise_cfg, State.disguise_shutdown]
  split
  · rfl
  split
  · exact unseen_receiveTerminator b s
  · exact congrArg Host.Outcome.next (receiveData_disguise b s)

theorem unseen_extractBlock (r : Bytes) : Unseen l f (execExtractBlock r) := by
  intro s
  unfold execExtractBlock
  rw [State.disguise_cfg]
  split
  · rfl
  split
  · exact unseen_raise _ _ s
  · rfl

theorem unseen_verifyCrc (crcfield span : Bytes) : Unseen l f (execVerifyCrc crcfield span) := by
  intro s
  unfold execVerifyCrc
  dsimp only
  rw [State.disguise_cfg, State.disguise_frame, State.runVerifyCrc_disguise]
  split
  · rfl
  · exact unseen_raise _ _ _

/-- No instruction sees the disguise. -/
theorem unseen_exec (i : Instr) : Unseen l f (exec i) := by
  intro s
  cases i with
  | crc16Init => rfl
  | crc16Byte b => rfl
  | crc16Final => rfl
  | xorInit => rfl
  | xorByte b => rfl
  | rxByte b => exact unseen_rxByte b s
  | extractBlock r => exact unseen_extractBlock r s
  | verifyCrc crcfield span => exact unseen_verifyCrc crcfield span s
  | aSet a => exact unseen_aSet a s
  | aQuery a => exact unseen_aQuery a s
  | nAddr a => exact unseen_nAddr a s
  | get a => exact unseen_get a s
  | set a => exact unseen_set a s
  | setnc a => exact unseen_setnc a s
  | form a => exact unseen_form a s
  | fmask a => exact unseen_fmask a s
  | cal a => exact unseen_cal a s
  | start a => exact unseen_mode _ _ s
  | run a => exact unseen_mode _ _ s
  | stop a => exact unseen_mode _ _ s
  | send a => exact unseen_send a s
  | poll a => exact unseen_mode _ _ s
  | r a => exact unseen_class _ s
  | reset a => exact unseen_class _ s

end

/-! ## O60 -/

/-- Settles O60: other timestamps are a disguise. -/
theorem blockNeverReadsLastTx : Obligations.BlockNeverReadsLastTx := by
  intro i s f
  have h := unseen_exec (l := []) (f := fun d _ => f d) i s
  rwa [← State.withLastTx_eq_disguise] at h

/-! ## O59: the other agents -/

section
variable (l : List LogEntry) (s : State)

theorem exec_withLogBefore (i : Instr) : exec i (s.withLogBefore l) = mapNext (·.withLogBefore l) (exec i s) := by
  rw [State.withLogBefore_eq_disguise, ← unseen_exec i s, ← State.withLogBefore_eq_disguise]

theorem serveDevices_withLogBefore (ds : List Nat) (feed : List (Option Bytes)) :
    serveDevices (s.withLogBefore l) ds feed = (serveDevices s ds feed).withLogBefore l := by
  induction ds generalizing feed s with
  | nil => rfl
  | cons d ds ih =>
    have hdevs : (s.withLogBefore l).devs = s.devs := rfl
    have hnow : (s.withLogBefore l).now = s.now := rfl
    unfold serveDevices
    rw [hdevs, hnow]
    split
    · exact ih s feed
    · rename_i v _
      split
      · split
        · rfl
        · exact ih s _
        · rename_i m feed'
          exact ih (s.collect d v m) feed'
      · exact ih s feed

theorem senderStep_withLogBefore (feed : List (Option Bytes)) :
    senderStep feed (s.withLogBefore l) = (senderStep feed s).withLogBefore l := by
  have henabled : senderEnabled (s.withLogBefore l) = senderEnabled s := rfl
  have hshut : (s.withLogBefore l).shutdown = s.shutdown := rfl
  unfold senderStep
  rw [henabled, hshut]
  split
  · rfl
  split
  · exact congrArg State.afterServe (serveDevices_withLogBefore l { s with wake := false } _ feed)
  · rfl

theorem stampAll_withLogBefore (n : Nat) (ps : List (Nat × Bytes)) :
    (s.withLogBefore l).stampAll n ps = (s.stampAll n ps).withLogBefore l := by
  induction ps generalizing s with
  | nil => rfl
  | cons p ps ih => exact ih (s.modifyDev p.1 fun d => { d with lastTx := some n })

theorem senderStamp_withLogBefore : senderStamp (s.withLogBefore l) = (senderStamp s).withLogBefore l := by
  have hnow : (s.withLogBefore l).now = s.now := rfl
  have hpend : (s.withLogBefore l).pending = s.pending := rfl
  rw [senderStamp_eq, senderStamp_eq, hnow, hpend, stampAll_withLogBefore]
  rfl

theorem senderMove_withLogBefore (dt : Nat) (feed : List (Option Bytes)) :
    senderMove dt feed (s.withLogBefore l) = (senderMove dt feed s).withLogBefore l := by
  have hphase : (s.withLogBefore l).senderPhase = s.senderPhase := rfl
  unfold senderMove
  rw [hphase]
  split
  · exact senderStep_withLogBefore l { s with now := s.now + dt } feed
  · rfl
  · exact senderStamp_withLogBefore l { s with now := s.now + dt }
  · rfl

theorem stepMove_withLogBefore (m : Move) :
    stepMove m (s.withLogBefore l) = mapNext (·.withLogBefore l) (stepMove m s) := by
  have hcfg : (s.withLogBefore l).cfg = s.cfg := rfl
  cases m with
  | port p data =>
    unfold stepMove
    dsimp only
    rw [hcfg]
    split
    · exact exec_withLogBefore l s _
    · rfl
  | noByte => rfl
  | sender dt feed => exact congrArg Host.Outcome.next (senderMove_withLogBefore l s dt feed)
  | transmit => rfl
  | shutdown => rfl

end

/-- Settles O59: entries before the log are a disguise to the receive path, and no other agent looks at the log. -/
theorem logHasNoEffect : Obligations.LogHasNoEffect := by
  intro l s
  have hinbox : (s.withLogBefore l).inbox = s.inbox := rfl
  unfold step
  rw [hinbox]
  split
  · rfl
  · rename_i m rest _
    exact stepMove_withLogBefore l { s with inbox := rest } m

end Sys2Proof.Machine
end

section
/-! PROOFS. The terminators of the families (30_encoding.md R80) and the boundary bytes after a keyword (R87). -/

namespace Sys2Proof

/-! ## Terminators -/

theorem isLine_iff (f : Family) : f.isLine = true ↔ f = .lineComma ∨ f = .lineKeyword := by
  cases f <;> decide

theorem isTerminator_of_isLine {f : Family} (b : Byte) (h : f.isLine = true) :
    f.isTerminator b = true ↔ b = Ascii.cr ∨ b = Ascii.lf := by
  simp [Family.isTerminator, h]

theorem isTerminator_of_isBlock {f : Family} (b : Byte) (h : f.isLine = false) :
    f.isTerminator b = true ↔ b = Ascii.etx := by
  simp [Family.isTerminator, h]

/-- A payload without a terminator holds no ETX in a block family (R93). -/
theorem etx_not_mem_of_not_isTerminator {f : Family} {p : Bytes} (hl : f.isLine = false)
    (h : ∀ b ∈ p, f.isTerminator b = false) : Ascii.etx ∉ p := fun hmem =>
  Bool.eq_false_iff.1 (h _ hmem) ((isTerminator_of_isBlock _ hl).2 rfl)

/-! ## Boundaries -/

theorem isBoundary_delim (f : Family) : f.isBoundary f.delim = true := by
  simp [Family.isBoundary]

theorem delim_ne_query (f : Family) : f.delim ≠ Ascii.query := by
  cases f <;> decide

theorem delim_ne_colon_of_isLine {f : Family} : f.isLine = true → f.delim ≠ Ascii.colon := by
  cases f <;> decide

theorem not_isDigit_delim (f : Family) : isDigit f.delim = false := by
  cases f <;> decide

theorem not_isTerminator_delim (f : Family) : f.isTerminator f.delim = false := by
  cases f <;> decide

/-- No letter is a boundary, in either case, so `fold` keeps what is one. -/
theorem isBoundary_foldByte (f : Family) (b : Byte) : f.isBoundary (foldByte b) = f.isBoundary b := by
  cases f <;> revert b <;> decide

end Sys2Proof
end

section
/-! PROOFS. Matching a keyword of a plain table (42_tokenizer.md R160, R162): a plain keyword stands exactly where the word
up to the first boundary folds to it, so that in a plain table each word has one candidate at most. -/

namespace Sys2Proof

/-! ## The word before a boundary (30_encoding.md R87) -/

theorem not_isBoundary_of_foldBytes_eq {f : Family} {w k : Bytes} (h : foldBytes w = foldBytes k)
    (hk : ∀ b ∈ k, f.isBoundary b = false) : ∀ b ∈ w, f.isBoundary b = false := by
  intro b hb
  have hmem : foldByte b ∈ foldBytes k := h ▸ List.mem_map_of_mem hb
  obtain ⟨a, ha, hab⟩ := List.mem_map.1 hmem
  rw [← isBoundary_foldByte, ← hab, isBoundary_foldByte, hk a ha]

/-- A string without a boundary, before a boundary or the end, is the word up to the first boundary. -/
theorem takeWhile_not_isBoundary_append {f : Family} {w rest : Bytes} (hw : ∀ b ∈ w, f.isBoundary b = false)
    (hrest : ∀ c ∈ rest.head?, f.isBoundary c = true) : (w ++ rest).takeWhile (!f.isBoundary ·) = w := by
  rw [List.takeWhile_append_of_pos (by simpa using hw)]
  cases rest with
  | nil => simp
  | cons c t => simp [hrest c rfl]

/-! ## One keyword -/

theorem keywordAt_iff_take_drop {f : Family} {p k : Bytes} :
    keywordAt f p k = true ↔ k.length ≤ p.length ∧ foldBytes (p.take k.length) = foldBytes k ∧
      ∀ c ∈ (p.drop k.length).head?, f.isBoundary c = true := by
  rw [List.head?_drop, keywordAt]
  cases p[k.length]? <;> simp [and_assoc]

/-- `keywordAt` by a decomposition of the string (R160). -/
theorem keywordAt_iff {f : Family} {p k : Bytes} :
    keywordAt f p k = true ↔
      ∃ w rest, p = w ++ rest ∧ foldBytes w = foldBytes k ∧ ∀ c ∈ rest.head?, f.isBoundary c = true := by
  rw [keywordAt_iff_take_drop]
  constructor
  · rintro ⟨-, hfold, hrest⟩
    exact ⟨p.take k.length, p.drop k.length, (List.take_append_drop _ p).symm, hfold, hrest⟩
  · rintro ⟨w, rest, rfl, hfold, hrest⟩
    have hlen : w.length = k.length := by simpa [foldBytes] using congrArg List.length hfold
    rw [← hlen, List.take_left, List.drop_left]
    exact ⟨by simp, hfold, hrest⟩

/-- After a plain word, a plain keyword stands exactly where it is that word under `fold`. -/
theorem keywordAt_append_iff {f : Family} {w k rest : Bytes} (hw : ∀ b ∈ w, f.isBoundary b = false)
    (hk : ∀ b ∈ k, f.isBoundary b = false) (hrest : ∀ c ∈ rest.head?, f.isBoundary c = true) :
    keywordAt f (w ++ rest) k = true ↔ foldBytes w = foldBytes k := by
  rw [keywordAt_iff]
  constructor
  · rintro ⟨w', rest', hp, hfold, hrest'⟩
    have hw' := not_isBoundary_of_foldBytes_eq hfold hk
    have hword : w = w' := by
      rw [← takeWhile_not_isBoundary_append hw hrest, hp, takeWhile_not_isBoundary_append hw' hrest']
    rw [hword, hfold]
  · intro hfold
    exact ⟨w, rest, rfl, hfold, hrest⟩

/-! ## The table -/

theorem foldl_longer_some_self {e : Bytes × Kind} {l : List (Bytes × Kind)} (h : ∀ x ∈ l, x = e) :
    l.foldl longer (some e) = some e := by
  induction l with
  | nil => rfl
  | cons x l ih =>
    obtain ⟨rfl, hl⟩ := List.forall_mem_cons.1 h
    have hstay : longer (some x) x = some x := by simp [longer]
    rw [List.foldl_cons, hstay, ih hl]

/-- Where all candidates are one entry, it is the longest. -/
theorem foldl_longer_of_forall_eq {e : Bytes × Kind} {l : List (Bytes × Kind)} (he : e ∈ l) (h : ∀ x ∈ l, x = e) :
    l.foldl longer none = some e := by
  cases l with
  | nil => cases he
  | cons x l =>
    obtain ⟨rfl, hl⟩ := List.forall_mem_cons.1 h
    exact foldl_longer_some_self hl

/-- A keyword of a plain table, before a boundary or the end, is matched as itself (R160). -/
theorem matchKeyword_append {cfg : Config} {e : Bytes × Kind} {rest : Bytes} (hp : cfg.plainTable) (he : e ∈ cfg.table)
    (hrest : ∀ c ∈ rest.head?, cfg.family.isBoundary c = true) : matchKeyword cfg (e.1 ++ rest) = some e := by
  obtain ⟨hplain, hnodup⟩ := hp
  have hword : ∀ x ∈ cfg.table, ∀ b ∈ x.1, cfg.family.isBoundary b = false := fun x hx b hb => ((hplain x hx).2 b hb).1
  have hat : ∀ x ∈ cfg.table, keywordAt cfg.family (e.1 ++ rest) x.1 = true ↔ foldBytes e.1 = foldBytes x.1 :=
    fun x hx => keywordAt_append_iff (hword e he) (hword x hx) hrest
  apply foldl_longer_of_forall_eq
  · exact List.mem_filter.2 ⟨he, (hat e he).2 rfl⟩
  · intro x hx
    obtain ⟨hxt, hxat⟩ := List.mem_filter.1 hx
    exact List.inj_on_of_nodup_map hnodup hxt he ((hat x hxt).1 hxat).symm

/-- A whole string that is a keyword of a plain table is matched as that keyword. -/
theorem matchKeyword_self {cfg : Config} {e : Bytes × Kind} (hp : cfg.plainTable) (he : e ∈ cfg.table) :
    matchKeyword cfg e.1 = some e := by
  simpa using matchKeyword_append (rest := []) hp he (by simp)

/-- The spelling of a kind that has one is a keyword of the table with that kind (R161). -/
theorem keywordOf_mem_table {cfg : Config} {k : Kind} (h : k.spelled cfg = true) : (keywordOf cfg k, k) ∈ cfg.table := by
  unfold keywordOf
  split
  · rename_i e hfound
    obtain rfl : e.2 = k := by simpa using List.find?_some hfound
    exact List.mem_of_find?_eq_some hfound
  · rename_i hnone
    obtain ⟨w, hw⟩ : ∃ w, (w, k) ∈ cfg.table := by simpa [Kind.spelled] using h
    exact absurd (beq_self_eq_true k) (List.find?_eq_none.1 hnone _ hw)

end Sys2Proof
end

section
/-! PROOFS. Block frames built and cut again: what stands between the control bytes, the cut at the last delimiter, and the
frame that the extractor reads off `frameBlock` (41_framing.md R139 to R144). -/

namespace Sys2Proof

/-! ## The CRC field -/

theorem etx_ne_colon : Ascii.etx ≠ Ascii.colon := by decide

theorem etx_ne_space : Ascii.etx ≠ Ascii.space := by decide

theorem hexByte_separate {n : Nat} (h : n < 16) :
    hexByte n ≠ Ascii.etx ∧ hexByte n ≠ Ascii.space ∧ hexByte n ≠ Ascii.colon := by
  revert n
  decide

/-- The rendered CRC field holds no byte that the extractor looks for. -/
theorem separators_not_mem_hex4 (v : Half) : Ascii.etx ∉ hex4 v ∧ Ascii.space ∉ hex4 v ∧ Ascii.colon ∉ hex4 v := by
  have hv : v.toNat < 2 ^ 16 := v.isLt
  obtain ⟨e3, s3, c3⟩ := hexByte_separate (n := v.toNat / 4096) (by omega)
  obtain ⟨e2, s2, c2⟩ := hexByte_separate (n := v.toNat / 256 % 16) (by omega)
  obtain ⟨e1, s1, c1⟩ := hexByte_separate (n := v.toNat / 16 % 16) (by omega)
  obtain ⟨e0, s0, c0⟩ := hexByte_separate (n := v.toNat % 16) (by omega)
  simp only [hex4, List.mem_cons, List.not_mem_nil, or_false, not_or]
  exact ⟨⟨e3.symm, e2.symm, e1.symm, e0.symm⟩, ⟨s3.symm, s2.symm, s1.symm, s0.symm⟩,
    ⟨c3.symm, c2.symm, c1.symm, c0.symm⟩⟩

theorem hex4_ne_nil (v : Half) : hex4 v ≠ [] := List.cons_ne_nil _ _

/-! ## Cutting -/

theorem beforeEtx_append_cons {t : Bytes} (rest : Bytes) (h : Ascii.etx ∉ t) :
    beforeEtx (t ++ Ascii.etx :: rest) = some t := by
  induction t with
  | nil => simp [beforeEtx]
  | cons b t ih =>
    obtain ⟨hb, ht⟩ := List.ne_and_not_mem_of_not_mem_cons h
    simp [beforeEtx, hb.symm, ih ht]

/-- Between STX and ETX (R139). -/
theorem blockInner_stx_append_etx {t : Bytes} (h : Ascii.etx ∉ t) :
    blockInner (Ascii.stx :: (t ++ [Ascii.etx])) = some t := by
  simp [blockInner, afterStx, beforeEtx_append_cons [] h]

theorem cutLast_of_not_mem {d : Byte} {t : Bytes} (h : d ∉ t) : cutLast d t = none := by
  induction t with
  | nil => rfl
  | cons b t ih =>
    obtain ⟨hb, ht⟩ := List.ne_and_not_mem_of_not_mem_cons h
    simp [cutLast, ih ht, hb.symm]

theorem cutLast_append_cons {d : Byte} (x : Bytes) {y : Bytes} (h : d ∉ y) : cutLast d (x ++ d :: y) = some (x, y) := by
  induction x with
  | nil => simp [cutLast, cutLast_of_not_mem h]
  | cons b x ih => simp [cutLast, ih]

/-! ## The frame -/

/-- The frame that a block family's encoder builds around a payload. -/
def builtFrame (cfg : Config) (p : Bytes) : Frame where
  family := cfg.family
  addr := none
  payload := p
  crcfield := some (hex4 (crc16 cfg.crcXorout (crcSpan cfg p)))
  span := crcSpan cfg p
  chkvalid := false

theorem blockFrame_hex4 (cfg : Config) (p : Bytes) :
    blockFrame cfg p (hex4 (crc16 cfg.crcXorout (crcSpan cfg p))) = some (builtFrame cfg p) :=
  if_neg (hex4_ne_nil _)

/-- `extract_bc` reads back what `BLOCK_COLON` frames: its last colon closes the CRC field, the one before opens it. -/
theorem extractBc_frameBlock {cfg : Config} {p : Bytes} (hf : cfg.family = .blockColon) (hp : Ascii.etx ∉ p) :
    extractBc cfg (frameBlock cfg p) = some (builtFrame cfg p) := by
  have hinner := blockFrame_hex4 cfg p
  generalize hv : crc16 cfg.crcXorout (crcSpan cfg p) = v at hinner
  obtain ⟨hetx, -, hcolon⟩ := separators_not_mem_hex4 v
  have hraw : frameBlock cfg p =
      Ascii.stx :: (((p ++ Ascii.colon :: hex4 v) ++ Ascii.colon :: []) ++ [Ascii.etx]) := by
    simp [frameBlock, hf, hv]
  rw [hraw, extractBc, blockInner_stx_append_etx (by simp [hp, hetx, etx_ne_colon]), Option.bind_some,
    cutLast_append_cons _ List.not_mem_nil, Option.bind_some, cutLast_append_cons _ hcolon, Option.bind_some, hinner]

/-- `extract_bs` reads back what `BLOCK_SPACE` frames: its last space opens the CRC field. -/
theorem extractBs_frameBlock {cfg : Config} {p : Bytes} (hf : cfg.family = .blockSpace) (hp : Ascii.etx ∉ p) :
    extractBs cfg (frameBlock cfg p) = some (builtFrame cfg p) := by
  have hinner := blockFrame_hex4 cfg p
  generalize hv : crc16 cfg.crcXorout (crcSpan cfg p) = v at hinner
  obtain ⟨hetx, hspace, -⟩ := separators_not_mem_hex4 v
  have hraw : frameBlock cfg p = Ascii.stx :: ((p ++ Ascii.space :: hex4 v) ++ [Ascii.etx]) := by
    simp [frameBlock, hf, hv]
  rw [hraw, extractBs, blockInner_stx_append_etx (by simp [hp, hetx, etx_ne_space]), Option.bind_some,
    cutLast_append_cons _ hspace, Option.bind_some, hinner]

end Sys2Proof
end

section
/-! PROOFS. The decoder reads back what the encoder writes, format by format (30_encoding.md R81 to R85): the statement
O13. -/

namespace Sys2Proof

/-! ## Well-formed commands -/

theorem Cmd.wf_iff {cfg : Config} {c : Cmd} :
    c.wf cfg = true ↔ c.kind.spelled cfg = true ∧ c.args.addrFits cfg = true ∧ c.args.fieldsFit cfg = true ∧
      c.args.noTerminator cfg = true := by
  simp only [Cmd.wf, Bool.and_eq_true, and_assoc]

theorem noTerminator_iff {cfg : Config} {a : Args} :
    a.noTerminator cfg = true ↔ ∀ b ∈ a.rawtail, cfg.family.isTerminator b = false := by
  simp [Args.noTerminator]

theorem addrFits_of_isLine {cfg : Config} {a : Args} (hl : cfg.family.isLine = true) (h : a.addrFits cfg = true) :
    a.addr = none ∨ cfg.addrPrefixEn = true := by
  cases hf : cfg.family <;> simp_all [Args.addrFits, Family.isLine]

theorem addrFits_of_blockSpace {cfg : Config} {a : Args} (hf : cfg.family = .blockSpace) (h : a.addrFits cfg = true) :
    a.addr = none := by
  simpa [Args.addrFits, hf] using h

theorem addrFits_of_blockColon {cfg : Config} {a : Args} (hf : cfg.family = .blockColon) (h : a.addrFits cfg = true) :
    ∃ n, a.addr = some n := by
  simpa [Args.addrFits, hf, Option.isSome_iff_exists] using h

theorem fieldsFit_of_blockColon {cfg : Config} {a : Args} (hf : cfg.family = .blockColon) (h : a.fieldsFit cfg = true) :
    a.rawtail = (a.fields.flatMap (Ascii.colon :: ·)).drop 1 ∧ ∀ f ∈ a.fields, Ascii.colon ∉ f := by
  simpa [Args.fieldsFit, hf] using h

theorem fieldsFit_of_ne_blockColon {cfg : Config} {a : Args} (hf : cfg.family ≠ .blockColon)
    (h : a.fieldsFit cfg = true) : a.fields = split a.rawtail cfg.family.delim := by
  cases hfam : cfg.family <;> simp_all [Args.fieldsFit]

/-- A byte of the keyword of a kind that has one, in a plain table. -/
theorem plain_of_mem_keywordOf {cfg : Config} {k : Kind} {b : Byte} (hp : cfg.plainTable) (h : k.spelled cfg = true)
    (hb : b ∈ keywordOf cfg k) : b ≠ Ascii.colon ∧ cfg.family.isTerminator b = false := by
  obtain ⟨hplain, -⟩ := hp
  obtain ⟨-, hbytes⟩ := hplain _ (keywordOf_mem_table h)
  obtain ⟨-, hcolon, hterm⟩ := hbytes b hb
  exact ⟨hcolon, hterm⟩

theorem colon_not_mem_keywordOf {cfg : Config} {k : Kind} (hp : cfg.plainTable) (h : k.spelled cfg = true) :
    Ascii.colon ∉ keywordOf cfg k := fun hmem =>
  (plain_of_mem_keywordOf hp h hmem).1 rfl

theorem not_isTerminator_of_mem_keywordOf {cfg : Config} {k : Kind} {b : Byte} (hp : cfg.plainTable)
    (h : k.spelled cfg = true) (hb : b ∈ keywordOf cfg k) : cfg.family.isTerminator b = false :=
  (plain_of_mem_keywordOf hp h hb).2

/-! ## Formats L, K and BS: KEYWORD, BOUNDARY and TAIL (R81, R82, R85) -/

/-- What `encodeTail` writes after the keyword. -/
def delimited (d : Byte) (t : Bytes) : Bytes := if t = [] then [] else d :: t

theorem encodeTail_eq (cfg : Config) (c : Cmd) :
    encodeTail cfg c = keywordOf cfg c.kind ++ delimited cfg.family.delim c.args.rawtail := rfl

theorem eq_of_mem_head?_delimited {d c : Byte} {t : Bytes} (h : c ∈ (delimited d t).head?) : c = d := by
  unfold delimited at h
  split at h
  · cases h
  · simpa using h.symm

theorem mem_delimited {d b : Byte} {t : Bytes} (h : b ∈ delimited d t) : b = d ∨ b ∈ t := by
  unfold delimited at h
  split at h
  · cases h
  · exact List.mem_cons.1 h

/-- The delimiter after the keyword is consumed (42_tokenizer.md R163). -/
theorem tailOf_append_delimited {d : Byte} (k t : Bytes) (hd : d ≠ Ascii.query) :
    tailOf (k ++ delimited d t) k.length = t := by
  by_cases ht : t = [] <;> simp [tailOf, delimited, ht, hd]

theorem not_isTerminator_of_mem_encodeTail {cfg : Config} {c : Cmd} (hp : cfg.plainTable) (hc : c.wf cfg = true) :
    ∀ b ∈ encodeTail cfg c, cfg.family.isTerminator b = false := by
  obtain ⟨hspell, -, -, hterm⟩ := Cmd.wf_iff.1 hc
  intro b hb
  rcases List.mem_append.1 hb with hkw | htail
  · exact not_isTerminator_of_mem_keywordOf hp hspell hkw
  · rcases mem_delimited htail with rfl | hraw
    · exact not_isTerminator_delim cfg.family
    · exact noTerminator_iff.1 hterm b hraw

theorem tokenize_encodeTail {cfg : Config} {c : Cmd} (hf : cfg.family ≠ .blockColon) (hp : cfg.plainTable)
    (hc : c.wf cfg = true) : tokenize cfg c.args.addr (encodeTail cfg c) = some c := by
  obtain ⟨hspell, -, hfields, -⟩ := Cmd.wf_iff.1 hc
  have hmatch : matchKeyword cfg (encodeTail cfg c) = some (keywordOf cfg c.kind, c.kind) :=
    matchKeyword_append hp (keywordOf_mem_table hspell)
      fun _ hb => (eq_of_mem_head?_delimited hb).symm ▸ isBoundary_delim cfg.family
  rw [tokenize_eq_tokenizeTail hf, tokenizeTail_of_match c.args.addr hmatch, encodeTail_eq,
    tailOf_append_delimited _ _ (delim_ne_query cfg.family), ← fieldsFit_of_ne_blockColon hf hfields]

/-! ## The address before a line's payload (R81) -/

/-- A keyword without a colon, and what follows its delimiter, are not read as an address. -/
theorem splitPrefix_append_delimited {cfg : Config} {k t : Bytes} (hk : Ascii.colon ∉ k)
    (hd : cfg.family.delim ≠ Ascii.colon) :
    splitPrefix cfg (k ++ delimited cfg.family.delim t) = (none, k ++ delimited cfg.family.delim t) := by
  apply splitPrefix_of_noPrefix
  rintro ⟨w, rest, -, hw, heq⟩
  have hhead : ∀ {b u}, delimited cfg.family.delim t = b :: u → b = cfg.family.delim :=
    fun h => eq_of_mem_head?_delimited (by rw [h]; rfl)
  rcases List.append_eq_append_iff.1 heq with ⟨ds, rfl, htail⟩ | ⟨ks, rfl, htail⟩
  · cases ds with
    | nil => exact hd (hhead htail).symm
    | cons b ds =>
      have hdigit := hw b (by simp)
      rw [hhead htail, not_isDigit_delim] at hdigit
      cases hdigit
  · cases ks with
    | nil => exact hd (hhead htail.symm).symm
    | cons b ks =>
      obtain ⟨rfl, -⟩ := List.cons.inj htail
      exact hk (by simp)

theorem splitPrefix_encodePrefix {cfg : Config} {c : Cmd} (hl : cfg.family.isLine = true) (hp : cfg.plainTable)
    (hc : c.wf cfg = true) :
    splitPrefix cfg (encodePrefix c.args.addr ++ encodeTail cfg c) = (c.args.addr, encodeTail cfg c) := by
  obtain ⟨hspell, haddr, -, -⟩ := Cmd.wf_iff.1 hc
  cases ha : c.args.addr with
  | none =>
    exact splitPrefix_append_delimited (colon_not_mem_keywordOf hp hspell) (delim_ne_colon_of_isLine hl)
  | some n =>
    have hen : cfg.addrPrefixEn = true := (addrFits_of_isLine hl haddr).resolve_left (by simp [ha])
    rw [encodePrefix, List.append_assoc, List.singleton_append,
      splitPrefix_of_digits_colon _ hen (dec_ne_nil n) (fun _ => isDigit_of_mem_dec), decimal_dec]

/-! ## Format BC: `CMD ':' id [':' params ...]` (R84) -/

theorem pieces_append_flatMap {d : Byte} {f : Bytes} {fs : List Bytes} (hf : d ∉ f) (hfs : ∀ g ∈ fs, d ∉ g) :
    pieces d (f ++ fs.flatMap (d :: ·)) = f :: fs := by
  induction fs generalizing f with
  | nil => simpa using pieces_of_not_mem hf
  | cons g gs ih =>
    obtain ⟨hg, hgs⟩ := List.forall_mem_cons.1 hfs
    rw [List.flatMap_cons, List.cons_append, pieces_append_cons _ hf, ih hg hgs]

/-- The joined fields hold colons and the bytes of the raw tail. -/
theorem mem_flatMap_cons {d b : Byte} {fs : List Bytes} (h : b ∈ fs.flatMap (d :: ·)) :
    b = d ∨ b ∈ (fs.flatMap (d :: ·)).drop 1 := by
  cases fs with
  | nil => cases h
  | cons f fs => simpa using h

theorem colon_not_mem_dec (n : Nat) : Ascii.colon ∉ dec n := fun h => by
  simpa [not_isDigit_colon] using isDigit_of_mem_dec h

theorem etx_not_mem_dec (n : Nat) : Ascii.etx ∉ dec n := fun h =>
  absurd (isDigit_of_mem_dec h) (by decide)

theorem encodeBc_of_addr {cfg : Config} {c : Cmd} {n : Nat} (ha : c.args.addr = some n) :
    encodeBc cfg c =
      keywordOf cfg c.kind ++ Ascii.colon :: (dec n ++ c.args.fields.flatMap (Ascii.colon :: ·)) := by
  simp [encodeBc, ha]

theorem etx_not_mem_encodeBc {cfg : Config} {c : Cmd} (hf : cfg.family = .blockColon) (hp : cfg.plainTable)
    (hc : c.wf cfg = true) : Ascii.etx ∉ encodeBc cfg c := by
  obtain ⟨hspell, haddr, hfields, hterm⟩ := Cmd.wf_iff.1 hc
  obtain ⟨n, ha⟩ := addrFits_of_blockColon hf haddr
  obtain ⟨hraw, -⟩ := fieldsFit_of_blockColon hf hfields
  have hl : cfg.family.isLine = false := by rw [hf]; rfl
  have hkw : Ascii.etx ∉ keywordOf cfg c.kind :=
    etx_not_mem_of_not_isTerminator hl fun _ => not_isTerminator_of_mem_keywordOf hp hspell
  have htail : Ascii.etx ∉ c.args.rawtail := etx_not_mem_of_not_isTerminator hl (noTerminator_iff.1 hterm)
  have hjoin : Ascii.etx ∉ c.args.fields.flatMap (Ascii.colon :: ·) := fun h =>
    (mem_flatMap_cons h).elim etx_ne_colon (hraw ▸ htail)
  rw [encodeBc_of_addr ha, List.mem_append, List.mem_cons, List.mem_append]
  simp [hkw, etx_ne_colon, etx_not_mem_dec n, hjoin]

/-- The fields of a `BLOCK_COLON` payload (42_tokenizer.md R167). -/
theorem split_encodeBc {cfg : Config} {c : Cmd} {n : Nat} (hp : cfg.plainTable) (hspell : c.kind.spelled cfg = true)
    (ha : c.args.addr = some n) (hfields : ∀ f ∈ c.args.fields, Ascii.colon ∉ f) :
    split (encodeBc cfg c) Ascii.colon = keywordOf cfg c.kind :: dec n :: c.args.fields := by
  rw [encodeBc_of_addr ha, split_of_ne_nil _ (by simp), pieces_append_cons _ (colon_not_mem_keywordOf hp hspell),
    pieces_append_flatMap (colon_not_mem_dec n) hfields]

theorem bcAddr_of_split {p kw id : Bytes} {fields : List Bytes} (h : split p Ascii.colon = kw :: id :: fields) :
    bcAddr p = parseUint id := by
  simp only [bcAddr, h]

theorem drop_encodeBc {cfg : Config} {c : Cmd} {n : Nat} (ha : c.args.addr = some n) :
    (encodeBc cfg c).drop ((keywordOf cfg c.kind).length + 1 + (dec n).length + 1) =
      (c.args.fields.flatMap (Ascii.colon :: ·)).drop 1 := by
  have hbytes : encodeBc cfg c =
      (keywordOf cfg c.kind ++ [Ascii.colon] ++ dec n) ++ c.args.fields.flatMap (Ascii.colon :: ·) := by
    simp [encodeBc, ha]
  have hlen : (keywordOf cfg c.kind ++ [Ascii.colon] ++ dec n).length =
      (keywordOf cfg c.kind).length + 1 + (dec n).length := by simp [Nat.add_assoc, Nat.add_comm 1]
  rw [hbytes, ← hlen, List.drop_length_add_append]

theorem tokenize_encodeBc {cfg : Config} {c : Cmd} (hf : cfg.family = .blockColon) (hp : cfg.plainTable)
    (hc : c.wf cfg = true) : tokenize cfg c.args.addr (encodeBc cfg c) = some c := by
  obtain ⟨hspell, haddr, hfields, -⟩ := Cmd.wf_iff.1 hc
  obtain ⟨n, ha⟩ := addrFits_of_blockColon hf haddr
  obtain ⟨hraw, hcolon⟩ := fieldsFit_of_blockColon hf hfields
  have hmatch := matchKeyword_self hp (keywordOf_mem_table hspell)
  rw [tokenize_eq_tokenizeBc hf, tokenizeBc_of_split _ (split_encodeBc hp hspell ha hcolon), hmatch, Option.bind_some,
    if_pos rfl, drop_encodeBc ha, ← hraw]

/-! ## Frames -/

theorem locateFrame_blockSpace {cfg : Config} (hf : cfg.family = .blockSpace) (raw : Bytes) :
    locateFrame cfg raw = extractBs cfg raw := by
  simp only [locateFrame, hf]

theorem locateFrame_blockColon {cfg : Config} (hf : cfg.family = .blockColon) (raw : Bytes) :
    locateFrame cfg raw =
      (extractBc cfg raw).bind fun f => (bcAddr f.payload).map fun a => { f with addr := some a } := by
  simp only [locateFrame, hf]

theorem encodeCmd_of_isLine {cfg : Config} (hl : cfg.family.isLine = true) (c : Cmd) :
    encodeCmd cfg c = encodePrefix c.args.addr ++ encodeTail cfg c := by
  cases hf : cfg.family with
  | lineComma => simp only [encodeCmd, hf]
  | lineKeyword => simp only [encodeCmd, hf]
  | blockColon => rw [hf] at hl; cases hl
  | blockSpace => rw [hf] at hl; cases hl

theorem encodeCmd_of_blockSpace {cfg : Config} (hf : cfg.family = .blockSpace) (c : Cmd) :
    encodeCmd cfg c = frameBlock cfg (encodeTail cfg c) := by
  simp only [encodeCmd, hf]

theorem encodeCmd_of_blockColon {cfg : Config} (hf : cfg.family = .blockColon) (c : Cmd) :
    encodeCmd cfg c = frameBlock cfg (encodeBc cfg c) := by
  simp only [encodeCmd, hf]

theorem decodeFrame_of_located {cfg : Config} {raw : Bytes} {f : Frame} {c : Cmd} (hf : locateFrame cfg raw = some f)
    (ht : tokenize cfg f.addr f.payload = some c) : decodeFrame cfg raw = .ok c := by
  simp only [decodeFrame, hf, ht]

theorem decodeFrame_encodeCmd_of_isLine {cfg : Config} {c : Cmd} (hl : cfg.family.isLine = true) (hp : cfg.plainTable)
    (hc : c.wf cfg = true) : decodeFrame cfg (encodeCmd cfg c) = .ok c := by
  have hne : cfg.family ≠ .blockColon := fun hf => by rw [hf] at hl; cases hl
  apply decodeFrame_of_located (locateFrame_of_isLine hl _)
  simp only [extractLine, encodeCmd_of_isLine hl, splitPrefix_encodePrefix hl hp hc]
  exact tokenize_encodeTail hne hp hc

theorem decodeFrame_encodeCmd_of_blockSpace {cfg : Config} {c : Cmd} (hf : cfg.family = .blockSpace)
    (hp : cfg.plainTable) (hc : c.wf cfg = true) : decodeFrame cfg (encodeCmd cfg c) = .ok c := by
  obtain ⟨-, haddr, -, -⟩ := Cmd.wf_iff.1 hc
  have hne : cfg.family ≠ .blockColon := by rw [hf]; decide
  have hl : cfg.family.isLine = false := by rw [hf]; rfl
  have hetx := etx_not_mem_of_not_isTerminator hl (not_isTerminator_of_mem_encodeTail hp hc)
  have hlocated : locateFrame cfg (encodeCmd cfg c) = some (builtFrame cfg (encodeTail cfg c)) := by
    rw [locateFrame_blockSpace hf, encodeCmd_of_blockSpace hf, extractBs_frameBlock hf hetx]
  have htok := tokenize_encodeTail hne hp hc
  rw [addrFits_of_blockSpace hf haddr] at htok
  exact decodeFrame_of_located hlocated htok

theorem decodeFrame_encodeCmd_of_blockColon {cfg : Config} {c : Cmd} (hf : cfg.family = .blockColon)
    (hp : cfg.plainTable) (hc : c.wf cfg = true) : decodeFrame cfg (encodeCmd cfg c) = .ok c := by
  obtain ⟨hspell, haddr, hfields, -⟩ := Cmd.wf_iff.1 hc
  obtain ⟨n, ha⟩ := addrFits_of_blockColon hf haddr
  obtain ⟨-, hcolon⟩ := fieldsFit_of_blockColon hf hfields
  have hid : bcAddr (encodeBc cfg c) = some n := by
    rw [bcAddr_of_split (split_encodeBc hp hspell ha hcolon), parseUint_dec]
  have hlocated : locateFrame cfg (encodeCmd cfg c) =
      some { builtFrame cfg (encodeBc cfg c) with addr := c.args.addr } := by
    rw [locateFrame_blockColon hf, encodeCmd_of_blockColon hf, extractBc_frameBlock hf (etx_not_mem_encodeBc hf hp hc),
      Option.bind_some, builtFrame, hid, Option.map_some, ha]
  exact decodeFrame_of_located hlocated (tokenize_encodeBc hf hp hc)

/-- A well-formed command is read back from its frame, in each family's format. -/
theorem decodeFrame_encodeCmd {cfg : Config} {c : Cmd} (hp : cfg.plainTable) (hc : c.wf cfg = true) :
    decodeFrame cfg (encodeCmd cfg c) = .ok c := by
  cases hf : cfg.family with
  | lineComma => exact decodeFrame_encodeCmd_of_isLine (by rw [hf]; rfl) hp hc
  | lineKeyword => exact decodeFrame_encodeCmd_of_isLine (by rw [hf]; rfl) hp hc
  | blockSpace => exact decodeFrame_encodeCmd_of_blockSpace hf hp hc
  | blockColon => exact decodeFrame_encodeCmd_of_blockColon hf hp hc

/-! ## O13 -/

/-- A PORT row's transaction carries its operands. -/
theorem decode_encode_of_port (cfg : Config) {i : Instr} (h : i.toCmd? = none) : decode cfg (encode cfg i) = .ok i := by
  cases i <;> cases h <;> rfl

theorem encode_of_toCmd? (cfg : Config) {i : Instr} {c : Cmd} (h : i.toCmd? = some c) :
    encode cfg i = .wire (encodeCmd cfg c) := by
  cases i <;> cases h <;> rfl

/-- The row of a well-formed instruction's command is that instruction: the two rows of `A` are told apart by the form
(43_dispatch.md R191), every other one by its kind. -/
theorem instrOf_toCmd? {cfg : Config} {i : Instr} {c : Cmd} (h : i.toCmd? = some c) (hw : i.wellFormed cfg = true) :
    c.wf cfg = true ∧ instrOf c = .ok i := by
  cases i
  case aSet a =>
    cases h
    obtain ⟨hc, hq⟩ : Cmd.wf cfg ⟨.autosend, a⟩ = true ∧ a.query = false := by simpa [Instr.wellFormed] using hw
    exact ⟨hc, by simp [instrOf, hq]⟩
  case aQuery a =>
    cases h
    obtain ⟨hc, hq⟩ : Cmd.wf cfg ⟨.autosend, a⟩ = true ∧ a.query = true := by simpa [Instr.wellFormed] using hw
    exact ⟨hc, by simp [instrOf, hq]⟩
  all_goals cases h <;> exact ⟨hw, rfl⟩

/-- Settles O13: a PORT row by its operands, a command by its family's format (`decodeFrame_encodeCmd`). -/
theorem decodeOfEncode : Obligations.DecodeOfEncode := by
  intro cfg i hp hw
  cases h : i.toCmd? with
  | none => exact decode_encode_of_port cfg h
  | some c =>
    obtain ⟨hc, hrow⟩ := instrOf_toCmd? h hw
    rw [encode_of_toCmd? cfg h, decode, decodeFrame_encodeCmd hp hc]
    exact hrow

end Sys2Proof
end

section
/-! PROOFS. The terminators that frame nothing (41_framing.md R131, R133, R134): the statement O39. -/

namespace Sys2Proof.Machine

theorem exec_rxByte_of_isTerminator {b : Byte} {s : State} (hs : s.shutdown = false)
    (ht : s.cfg.family.isTerminator b = true) : exec (.rxByte b) s = receiveTerminator b s := by
  simp [exec, execRxByte, hs, ht]

theorem receiveTerminator_of_discarded {s : State} (b : Byte) (h : s.rxdisc = true) :
    receiveTerminator b s = .next (s.setRx [] false) := if_pos h

theorem receiveTerminator_of_emptyLine {s : State} (b : Byte) (hd : s.rxdisc = false)
    (hl : s.cfg.family.isLine = true) (he : s.rxbuf = []) : receiveTerminator b s = .next s := by
  simp [receiveTerminator, hd, hl, he]

/-- Settles O39: a terminator's byte is one of two or one; in RX_BYTE it goes to `receiveTerminator`, whose first two cases
these are. -/
theorem terminatorWithoutFrame : Obligations.TerminatorWithoutFrame := by
  refine ⟨fun f b => ⟨isLine_iff f, ?_⟩, fun b s hs ht => ?_⟩
  · split
    · rename_i hline
      exact isTerminator_of_isLine b ((isLine_iff f).2 hline)
    · rename_i hblock
      exact isTerminator_of_isBlock b (Bool.eq_false_iff.2 (mt (isLine_iff f).1 hblock))
  · rw [exec_rxByte_of_isTerminator hs ht]
    exact ⟨receiveTerminator_of_discarded b, receiveTerminator_of_emptyLine b⟩

end Sys2Proof.Machine
end

section
/-! PROOFS. The arithmetic of the CRC-16 unit and of the XOR unit (40_checksum.md R111 to R121): a step of the register bit
by bit, why no step loses anything of its operands, and the checksum of a rearranged and of a joined string: the
statements O4 and O6. -/

namespace Sys2Proof

/-! ## Bit by bit (R111) -/

/-- A word in the register is shifted as a message of its own: its top bit meets bit 15, and the rest moves up. -/
theorem crcShift_xor (acc m : Half) : crcShift (acc ^^^ m) = Machine.crcBit acc m.msb ^^^ m <<< 1 := by
  rw [crcShift, Machine.crcBit, BitVec.msb_xor, BitVec.shiftLeft_xor_distrib, Bool.bne_eq_xor]
  split
  · ac_rfl
  · rfl

/-- The bits of a word that the first `n` shifts take, most significant first. -/
def topBits (m : Half) (n : Nat) : List Bool := (List.range n).map m.getMsbD

theorem topBits_succ (m : Half) (n : Nat) : topBits m (n + 1) = topBits m n ++ [(m <<< n).msb] := by
  simp [topBits, List.range_succ, BitVec.msb]

/-- After `n` shifts the top `n` bits have gone through the register, and what is left of the word stands above them. -/
theorem crcShift_iterate_xor (acc m : Half) (n : Nat) :
    crcShift^[n] (acc ^^^ m) = (topBits m n).foldl Machine.crcBit acc ^^^ m <<< n := by
  induction n with
  | zero => simp [topBits]
  | succ n ih =>
    rw [Function.iterate_succ_apply', ih, crcShift_xor, topBits_succ, List.foldl_concat, BitVec.shiftLeft_add]

/-- The upper byte of a word is shifted out by eight shifts. -/
theorem upperByte_shiftLeft_eight (b : Byte) : (b.setWidth 16 <<< 8 : Half) <<< 8 = 0#16 := by
  rw [← BitVec.shiftLeft_add]
  exact BitVec.shiftLeft_eq_zero (by decide)

theorem topBits_upperByte (b : Byte) : topBits (b.setWidth 16 <<< 8) 8 = Machine.bitsMsbFirst b := by
  apply List.map_congr_left
  intro i hi
  have hbit : b.getMsbD i = b.getLsbD (7 - i) := by simp [BitVec.getMsbD, List.mem_range.1 hi]
  simpa using hbit

/-- `CRC16_BYTE` is the bit-serial register fed with the bits of its byte. -/
theorem crcByte_eq_foldl_crcBit (acc : Half) (b : Byte) :
    crcByte acc b = (Machine.bitsMsbFirst b).foldl Machine.crcBit acc := by
  rw [crcByte, crcShift_iterate_xor, upperByte_shiftLeft_eight, topBits_upperByte, BitVec.xor_zero]

/-! ## Nothing is lost (R111, R115) -/

/-- The polynomial has the term 1, so bit 0 after a shift is the bit that was shifted out. -/
theorem crcShift_getLsbD_zero (x : Half) : (crcShift x).getLsbD 0 = x.msb := by
  unfold crcShift
  split <;> simp_all

/-- The plain shift and its feedback, apart. -/
theorem crcShift_eq_xor (x : Half) : crcShift x = x <<< 1 ^^^ if x.msb then 0x1021#16 else 0#16 := by
  unfold crcShift
  split <;> simp

theorem crcShift_injective : Function.Injective crcShift := by
  intro x y h
  have hmsb : x.msb = y.msb := by rw [← crcShift_getLsbD_zero, h, crcShift_getLsbD_zero]
  have hshift : x <<< 1 = y <<< 1 := by
    rwa [crcShift_eq_xor, crcShift_eq_xor, hmsb, BitVec.xor_left_inj] at h
  rw [BitVec.msb_eq_decide, BitVec.msb_eq_decide, decide_eq_decide] at hmsb
  have hnat := congrArg BitVec.toNat hshift
  simp only [BitVec.toNat_shiftLeft, Nat.shiftLeft_eq] at hnat
  bv_omega

theorem upperByte_injective : Function.Injective fun b : Byte => (b.setWidth 16 <<< 8 : Half) := by
  intro b b' h
  dsimp only at h
  bv_omega

/-- Two bytes are told apart by any accumulator. -/
theorem crcByte_injective_byte (acc : Half) : Function.Injective (crcByte acc) := fun _ _ h =>
  upperByte_injective ((BitVec.xor_right_inj _).1 (crcShift_injective.iterate 8 h))

/-- Two accumulators are told apart after any byte. -/
theorem crcByte_injective_acc (b : Byte) : Function.Injective (crcByte · b) := fun _ _ h =>
  (BitVec.xor_left_inj _).1 (crcShift_injective.iterate 8 h)

/-- A difference in the accumulator survives every string. -/
theorem crcFold_injective (bs : Bytes) : Function.Injective (crcFold · bs) := by
  induction bs with
  | nil => exact fun _ _ h => h
  | cons b bs ih => exact ih.comp (crcByte_injective_acc b)

theorem crcFold_append_cons (acc : Half) (p : Bytes) (b : Byte) (q : Bytes) :
    crcFold acc (p ++ b :: q) = crcFold (crcByte (crcFold acc p) b) q := by
  simp [crcFold]

/-- Settles O4: the accumulators differ after the changed byte (`crcByte_injective_byte`), and what follows keeps them
apart (`crcFold_injective`). -/
theorem crcDetectsEveryOneByteChange : Obligations.CrcDetectsEveryOneByteChange := by
  intro xorout p q b b' hne h
  simp only [crc16, BitVec.xor_left_inj, crcFold_append_cons] at h
  exact hne (crcByte_injective_byte _ (crcFold_injective q h))

/-! ## The XOR checksum (R120, R121) -/

theorem xorChecksum_perm {bs bs' : Bytes} (h : bs.Perm bs') : xorChecksum bs = xorChecksum bs' :=
  h.foldl_eq _

/-- The bytes already folded in stay in front. -/
theorem foldl_xor_eq (acc : Byte) (bs : Bytes) : bs.foldl (· ^^^ ·) acc = acc ^^^ xorChecksum bs := by
  rw [xorChecksum, ← List.foldl_assoc (op := fun a b : Byte => a ^^^ b), BitVec.xor_zero]

theorem xorChecksum_append (s t : Bytes) : xorChecksum (s ++ t) = xorChecksum s ^^^ xorChecksum t := by
  rw [xorChecksum, List.foldl_append, foldl_xor_eq, ← xorChecksum]

/-- Settles O6: the empty cases are the fold's start, and a fold goes on from what it has (`xorChecksum_append`). -/
theorem xorChecksumLaws : Obligations.XorChecksumLaws :=
  ⟨rfl, rfl, fun _ => rfl, xorChecksum_append⟩

end Sys2Proof
end

section
/-! PROOFS. The port operations of the CRC-16 unit and the XOR unit (40_checksum.md R110 to R120), each and in sequence:
the statements O1, O2, O3 and O5. -/

namespace Sys2Proof.Machine

/-! ## Each port -/

theorem exec_crc16Init (s : State) : exec .crc16Init s = .next { s with crcr := crcInit } := rfl

theorem exec_crc16Byte (b : Byte) (s : State) :
    exec (.crc16Byte b) s = .next { s with crcr := crcByte s.crcr b } := rfl

theorem exec_crc16Final (s : State) :
    exec .crc16Final s = .next { s with crcOut := s.crcr ^^^ s.cfg.crcXorout } := rfl

theorem exec_xorInit (s : State) : exec .xorInit s = .next { s with xacc := 0#8 } := rfl

theorem exec_xorByte (b : Byte) (s : State) : exec (.xorByte b) s = .next { s with xacc := s.xacc ^^^ b } := rfl

/-- Settles O1: each port's equation, `crcInit` being the constant of R110. -/
theorem checksumPortSteps : Obligations.ChecksumPortSteps := fun s =>
  ⟨exec_crc16Init s, exec_crc16Final s, exec_xorInit s, fun b => exec_xorByte b s⟩

/-- Settles O2: the accumulator that CRC16_BYTE stores is the bit-serial one (`crcByte_eq_foldl_crcBit`). -/
theorem crc16ByteIsBitSerialMsbFirst : Obligations.Crc16ByteIsBitSerialMsbFirst := by
  intro b s
  rw [exec_crc16Byte, crcByte_eq_foldl_crcBit]

/-! ## Ports in sequence -/

theorem execAll_cons_of_next {i : Instr} {s t : State} (is : List Instr) (h : exec i s = .next t) :
    execAll (i :: is) s = execAll is t := by
  simp only [execAll, h]

theorem execAll_append_of_next {is : List Instr} {s t : State} (js : List Instr) (h : execAll is s = .next t) :
    execAll (is ++ js) s = execAll js t := by
  induction is generalizing s with
  | nil => cases h; rfl
  | cons i is ih =>
    cases hi : exec i s with
    | next u =>
      rw [execAll_cons_of_next _ hi] at h
      rw [List.cons_append, execAll_cons_of_next _ hi, ih h]
    | fault e => simp [execAll, hi] at h
    | refused r => simp [execAll, hi] at h

/-- A port that takes a byte into one register, over a string: `g` is the state with the register's value put in. -/
theorem execAll_map_of_register {σ : Type} {g : σ → State} {port : Byte → Instr} {f : σ → Byte → σ}
    (h : ∀ x b, exec (port b) (g x) = .next (g (f x b))) (bs : Bytes) (x : σ) :
    execAll (bs.map port) (g x) = .next (g (bs.foldl f x)) := by
  induction bs generalizing x with
  | nil => rfl
  | cons b bs ih => rw [List.map_cons, execAll_cons_of_next _ (h x b), ih, List.foldl_cons]

theorem execAll_crc16Byte (bs : Bytes) (s : State) :
    execAll (bs.map .crc16Byte) s = .next { s with crcr := crcFold s.crcr bs } :=
  execAll_map_of_register (g := fun x => { s with crcr := x }) (fun x b => exec_crc16Byte b { s with crcr := x })
    bs s.crcr

theorem execAll_xorByte (bs : Bytes) (s : State) :
    execAll (bs.map .xorByte) s = .next { s with xacc := bs.foldl (· ^^^ ·) s.xacc } :=
  execAll_map_of_register (g := fun x => { s with xacc := x }) (fun x b => exec_xorByte b { s with xacc := x })
    bs s.xacc

/-- Settles O3: the accumulator is loaded, folds the string (`execAll_crc16Byte`), and is given out under the final XOR. -/
theorem crcPortsComputeCrc16 : Obligations.CrcPortsComputeCrc16 := by
  intro bs s
  rw [List.append_assoc, List.singleton_append, execAll_cons_of_next _ (exec_crc16Init s),
    execAll_append_of_next _ (execAll_crc16Byte bs _), execAll_cons_of_next _ (exec_crc16Final _)]
  rfl

/-- Settles O5: the string's bytes are folded from 0 (`execAll_xorByte`), in any order alike (`xorChecksum_perm`). -/
theorem xorPortsComputeChecksum : Obligations.XorPortsComputeChecksum := by
  intro bs bs' s hperm
  rw [execAll_cons_of_next _ (exec_xorInit s), execAll_xorByte, ← xorChecksum_perm hperm, xorChecksum]

end Sys2Proof.Machine
end

section
/-! PROOFS. The form HEX4 (30_encoding.md R89) reads exactly what `hex4` renders (00_scope.md R12), in either case of the
letters (40_checksum.md R117): the statement O11. -/

namespace Sys2Proof

/-! ## One digit -/

theorem hexDigit_hexByte {n : Nat} (h : n < 16) : hexDigit (hexByte n) = some n := by
  revert n
  decide

theorem hexDigit_foldByte (b : Byte) : hexDigit (foldByte b) = hexDigit b := by
  revert b
  decide

theorem foldByte_foldByte (b : Byte) : foldByte (foldByte b) = foldByte b := by
  revert b
  decide

theorem foldBytes_foldBytes (h : Bytes) : foldBytes (foldBytes h) = foldBytes h := by
  simp [foldBytes, foldByte_foldByte]

/-- A hexadecimal digit is, in uppercase, the rendering of its value. -/
theorem foldByte_of_hexDigit {b : Byte} {n : Nat} (h : hexDigit b = some n) : n < 16 ∧ foldByte b = hexByte n := by
  have hall : ∀ b, ∀ n ∈ hexDigit b, n < 16 ∧ foldByte b = hexByte n := by decide
  exact hall b n h

theorem hexDigit_of_foldByte {b : Byte} {n : Nat} (hn : n < 16) (h : foldByte b = hexByte n) : hexDigit b = some n := by
  rw [← hexDigit_foldByte, h, hexDigit_hexByte hn]

/-- The rendered digits are uppercase already. -/
theorem foldByte_hexByte {n : Nat} (h : n < 16) : foldByte (hexByte n) = hexByte n :=
  (foldByte_of_hexDigit (hexDigit_hexByte h)).2

/-! ## Four digits -/

theorem parseHex4_of_hexDigits {a b c d : Byte} {x y z w : Nat} (ha : hexDigit a = some x) (hb : hexDigit b = some y)
    (hc : hexDigit c = some z) (hd : hexDigit d = some w) :
    parseHex4 [a, b, c, d] = some (BitVec.ofNat 16 (((x * 16 + y) * 16 + z) * 16 + w)) := by
  simp only [parseHex4, ha, hb, hc, hd]

/-- HEX4 has four digits and their positional value, the first most significant. -/
theorem hexDigits_of_parseHex4 {h : Bytes} {v : Half} (hv : parseHex4 h = some v) :
    ∃ a b c d x y z w, h = [a, b, c, d] ∧ hexDigit a = some x ∧ hexDigit b = some y ∧ hexDigit c = some z ∧
      hexDigit d = some w ∧ v = BitVec.ofNat 16 (((x * 16 + y) * 16 + z) * 16 + w) := by
  unfold parseHex4 at hv
  split at hv
  · split at hv
    · rename_i x y z w ha hb hc hd
      cases hv
      exact ⟨_, _, _, _, x, y, z, w, rfl, ha, hb, hc, hd, rfl⟩
    · cases hv
  · cases hv

/-- Four nibbles are the digits of their value. -/
theorem hex4_ofNat_nibbles {x y z w : Nat} (hx : x < 16) (hy : y < 16) (hz : z < 16) (hw : w < 16) :
    hex4 (BitVec.ofNat 16 (((x * 16 + y) * 16 + z) * 16 + w)) = [hexByte x, hexByte y, hexByte z, hexByte w] := by
  rw [hex4, BitVec.toNat_ofNat, Nat.mod_eq_of_lt (by omega)]
  congr <;> omega

/-- A field is HEX4 with a value exactly where it is, in uppercase, the rendering of that value. -/
theorem parseHex4_eq_some_iff {h : Bytes} {v : Half} : parseHex4 h = some v ↔ foldBytes h = hex4 v := by
  constructor
  · intro hv
    obtain ⟨a, b, c, d, x, y, z, w, rfl, ha, hb, hc, hd, rfl⟩ := hexDigits_of_parseHex4 hv
    obtain ⟨hx, ha⟩ := foldByte_of_hexDigit ha
    obtain ⟨hy, hb⟩ := foldByte_of_hexDigit hb
    obtain ⟨hz, hc⟩ := foldByte_of_hexDigit hc
    obtain ⟨hw, hd⟩ := foldByte_of_hexDigit hd
    rw [hex4_ofNat_nibbles hx hy hz hw, ← ha, ← hb, ← hc, ← hd]
    rfl
  · intro hfold
    have hlt := v.isLt
    obtain ⟨a, b, c, d, rfl⟩ : ∃ a b c d, h = [a, b, c, d] :=
      List.length_eq_four.1 (by simpa [foldBytes, hex4] using congrArg List.length hfold)
    simp only [foldBytes, hex4, List.map_cons, List.cons.injEq] at hfold
    obtain ⟨ha, hb, hc, hd, -⟩ := hfold
    rw [parseHex4_of_hexDigits (hexDigit_of_foldByte (by omega) ha) (hexDigit_of_foldByte (by omega) hb)
      (hexDigit_of_foldByte (by omega) hc) (hexDigit_of_foldByte (by omega) hd), Option.some.injEq]
    apply BitVec.eq_of_toNat_eq
    rw [BitVec.toNat_ofNat]
    omega

/-- What `hex4` renders is uppercase already. -/
theorem foldBytes_hex4 (v : Half) : foldBytes (hex4 v) = hex4 v := by
  have hlt := v.isLt
  simp only [foldBytes, hex4, List.map_cons, List.map_nil]
  rw [foldByte_hexByte (by omega), foldByte_hexByte (by omega), foldByte_hexByte (by omega), foldByte_hexByte (by omega)]

theorem parseHex4_foldBytes (h : Bytes) : parseHex4 (foldBytes h) = parseHex4 h := by
  ext v
  rw [parseHex4_eq_some_iff, parseHex4_eq_some_iff, foldBytes_foldBytes]

/-- The leading digit needs no reduction: a half has four nibbles. -/
theorem hex4_eq_nibbles (v : Half) :
    hex4 v = [hexByte (v.toNat / 4096 % 16), hexByte (v.toNat / 256 % 16), hexByte (v.toNat / 16 % 16),
      hexByte (v.toNat % 16)] := by
  have hlt := v.isLt
  rw [hex4, Nat.mod_eq_of_lt (a := v.toNat / 4096) (by omega)]

/-- Settles O11: a field and the rendering agree digit by digit under `fold` (`parseHex4_eq_some_iff`), and what `hex4`
renders is unchanged by it. -/
theorem hexFieldReadsBackInEitherCase : Obligations.HexFieldReadsBackInEitherCase :=
  ⟨hex4_eq_nibbles, fun v => parseHex4_eq_some_iff.2 (foldBytes_hex4 v), parseHex4_foldBytes,
    fun _ _ => parseHex4_eq_some_iff⟩

end Sys2Proof
end

section
/-! PROOFS. The cut of a block frame by its indices (41_framing.md R140, R142, R144): what stands before and after the first
and the last occurrence of a byte, and from it exactly which frame each block family's extractor gives, and when none. -/

namespace Sys2Proof.Machine

/-! ## Slices (00_scope.md R10) -/

theorem slice_eq_take_drop (r : Bytes) (i j : Nat) : slice r i j = (r.drop i).take (j - i) := List.drop_take

theorem slice_append_slice (r : Bytes) {i k j : Nat} (hik : i ≤ k) (hkj : k ≤ j) :
    slice r i k ++ slice r k j = slice r i j := by
  have hlen : j - i = (k - i) + (j - k) := by omega
  rw [slice_eq_take_drop, slice_eq_take_drop, slice_eq_take_drop, hlen, List.take_add, List.drop_drop,
    Nat.add_sub_cancel' hik]

theorem slice_eq_cons {r : Bytes} {b : Byte} {i j : Nat} (h : r[i]? = some b) (hij : i < j) :
    slice r i j = b :: slice r (i + 1) j := by
  have hb : (r.take j)[i]? = some b := by rw [List.getElem?_take_of_lt hij, h]
  obtain ⟨hi, rfl⟩ := List.getElem?_eq_some_iff.1 hb
  exact List.drop_eq_getElem_cons hi

/-- A slice at a byte it holds: what stands before it, the byte, and what stands after it. -/
theorem slice_eq_append_cons {r : Bytes} {b : Byte} {lo i hi : Nat} (hlo : lo ≤ i) (hhi : i < hi) (h : r[i]? = some b) :
    slice r lo hi = slice r lo i ++ b :: slice r (i + 1) hi := by
  rw [← slice_append_slice r hlo hhi.le, slice_eq_cons h hhi]

theorem slice_length (r : Bytes) (i : Nat) : slice r i r.length = r.drop i := by rw [slice, List.take_length]

theorem slice_self (r : Bytes) (i : Nat) : slice r i i = [] := List.drop_eq_nil_of_le (List.length_take_le i r)

theorem slice_eq_nil_iff {r : Bytes} {i j : Nat} (hj : j ≤ r.length) : slice r i j = [] ↔ j ≤ i := by
  rw [slice, List.drop_eq_nil_iff, List.length_take, min_eq_left hj]

theorem mem_slice_iff {r : Bytes} {b : Byte} {i j : Nat} : b ∈ slice r i j ↔ ∃ k, i ≤ k ∧ k < j ∧ r[k]? = some b := by
  simp only [slice, List.mem_iff_getElem?, List.getElem?_drop, List.getElem?_take, Option.ite_none_right_eq_some]
  constructor
  · rintro ⟨n, hn, hb⟩
    exact ⟨i + n, Nat.le_add_right i n, hn, hb⟩
  · rintro ⟨k, hik, hkj, hb⟩
    refine ⟨k - i, ?_⟩
    rw [Nat.add_sub_cancel' hik]
    exact ⟨hkj, hb⟩

/-! ## The first and the last index of a byte -/

theorem lt_length_of_getElem? {r : Bytes} {b : Byte} {i : Nat} (h : r[i]? = some b) : i < r.length :=
  (List.getElem?_eq_some_iff.1 h).1

theorem FirstAt.not_mem {r : Bytes} {b : Byte} {lo i : Nat} (h : FirstAt r b lo i) : b ∉ slice r lo i := by
  obtain ⟨-, -, hfirst⟩ := h
  rw [mem_slice_iff]
  rintro ⟨k, hlo, hi, hb⟩
  exact hfirst k hi hlo hb

/-- What stands before the first occurrence, the byte, and the rest. -/
theorem FirstAt.drop_eq {r : Bytes} {b : Byte} {lo i : Nat} (h : FirstAt r b lo i) :
    r.drop lo = slice r lo i ++ b :: r.drop (i + 1) := by
  obtain ⟨hlo, hb, -⟩ := h
  rw [← slice_length, slice_eq_append_cons hlo (lt_length_of_getElem? hb) hb, slice_length]

theorem LastBetween.not_mem {r : Bytes} {b : Byte} {lo hi i : Nat} (h : LastBetween r b lo hi i) :
    b ∉ slice r (i + 1) hi := by
  obtain ⟨-, -, -, hlast⟩ := h
  rw [mem_slice_iff]
  rintro ⟨k, hi, hk, hb⟩
  exact hlast k hk hi hb

/-- What stands before the last occurrence, the byte, and what stands after it. -/
theorem LastBetween.slice_eq {r : Bytes} {b : Byte} {lo hi i : Nat} (h : LastBetween r b lo hi i) :
    slice r (lo + 1) hi = slice r (lo + 1) i ++ b :: slice r (i + 1) hi := by
  obtain ⟨hlo, hhi, hb, -⟩ := h
  exact slice_eq_append_cons hlo hhi hb

/-- A byte that occurs has a first index. -/
theorem exists_firstAt {r : Bytes} {b : Byte} {lo : Nat} (h : b ∈ r.drop lo) : ∃ i, FirstAt r b lo i := by
  rw [← slice_length, mem_slice_iff] at h
  have hex : ∃ k, lo ≤ k ∧ r[k]? = some b := h.imp fun _ hk => ⟨hk.1, hk.2.2⟩
  obtain ⟨hlo, hb⟩ := Nat.find_spec hex
  exact ⟨Nat.find hex, hlo, hb, fun j hj hle hbj => Nat.find_min hex hj ⟨hle, hbj⟩⟩

/-- A byte that occurs between two indices has a last index there. -/
theorem exists_lastBetween {r : Bytes} {b : Byte} {lo hi : Nat} (h : b ∈ slice r (lo + 1) hi) :
    ∃ i, LastBetween r b lo hi i := by
  obtain ⟨k, hlo, hhi, hb⟩ := mem_slice_iff.1 h
  have hspec := Nat.findGreatest_spec (P := fun k => lo < k ∧ k < hi ∧ r[k]? = some b) hhi.le ⟨hlo, hhi, hb⟩
  obtain ⟨hlo', hhi', hb'⟩ := hspec
  exact ⟨_, hlo', hhi', hb', fun j hj hlt hbj =>
    Nat.findGreatest_is_greatest hlt hj.le ⟨hlo'.trans hlt, hj, hbj⟩⟩

/-! ## The scans of the extractor (41_framing.md R140, R144) -/

theorem afterStx_of_not_mem {t : Bytes} (h : Ascii.stx ∉ t) : afterStx t = none := by
  induction t with
  | nil => rfl
  | cons b t ih =>
    obtain ⟨hb, ht⟩ := List.ne_and_not_mem_of_not_mem_cons h
    rw [afterStx, if_neg hb.symm, ih ht]

theorem afterStx_append_cons {lead : Bytes} (t : Bytes) (h : Ascii.stx ∉ lead) :
    afterStx (lead ++ Ascii.stx :: t) = some t := by
  induction lead with
  | nil => rfl
  | cons b lead ih =>
    obtain ⟨hb, ht⟩ := List.ne_and_not_mem_of_not_mem_cons h
    rw [List.cons_append, afterStx, if_neg hb.symm, ih ht]

theorem beforeEtx_of_not_mem {t : Bytes} (h : Ascii.etx ∉ t) : beforeEtx t = none := by
  induction t with
  | nil => rfl
  | cons b t ih =>
    obtain ⟨hb, ht⟩ := List.ne_and_not_mem_of_not_mem_cons h
    rw [beforeEtx, if_neg hb.symm, ih ht, Option.map_none]

theorem afterStx_of_firstAt {r : Bytes} {i : Nat} (h : FirstAt r Ascii.stx 0 i) : afterStx r = some (r.drop (i + 1)) := by
  have hr := h.drop_eq
  rw [List.drop_zero] at hr
  rw [hr, afterStx_append_cons _ h.not_mem, ← hr]

theorem beforeEtx_of_firstAt {r : Bytes} {lo e : Nat} (h : FirstAt r Ascii.etx lo e) :
    beforeEtx (r.drop lo) = some (slice r lo e) := by
  rw [h.drop_eq, beforeEtx_append_cons _ h.not_mem]

/-- A scan that answers at the indices where it stops, and not at all where there is no such index. -/
theorem scan_eq_some_iff {α : Type} {scan : Option α} {stops : Nat → Prop} {answer : Nat → α} {a : α}
    (hstop : ∀ i, stops i → scan = some (answer i)) (hnone : (¬ ∃ i, stops i) → scan = none) :
    scan = some a ↔ ∃ i, stops i ∧ answer i = a := by
  constructor
  · intro h
    by_cases hex : ∃ i, stops i
    · obtain ⟨i, hi⟩ := hex
      exact ⟨i, hi, Option.some.inj ((hstop i hi).symm.trans h)⟩
    · rw [hnone hex] at h
      cases h
  · rintro ⟨i, hi, rfl⟩
    exact hstop i hi

theorem afterStx_eq_some_iff {r t : Bytes} :
    afterStx r = some t ↔ ∃ i, FirstAt r Ascii.stx 0 i ∧ r.drop (i + 1) = t :=
  scan_eq_some_iff (fun _ => afterStx_of_firstAt) fun hno =>
    afterStx_of_not_mem fun hmem => hno (exists_firstAt (lo := 0) hmem)

theorem beforeEtx_drop_eq_some_iff {r t : Bytes} {lo : Nat} :
    beforeEtx (r.drop lo) = some t ↔ ∃ e, FirstAt r Ascii.etx lo e ∧ slice r lo e = t :=
  scan_eq_some_iff (fun _ => beforeEtx_of_firstAt) fun hno => beforeEtx_of_not_mem fun hmem => hno (exists_firstAt hmem)

/-- Between the first STX and the first ETX after it (R139). -/
theorem blockInner_eq_some_iff {r inner : Bytes} :
    blockInner r = some inner ↔
      ∃ i e, FirstAt r Ascii.stx 0 i ∧ FirstAt r Ascii.etx (i + 1) e ∧ slice r (i + 1) e = inner := by
  simp only [blockInner, Option.bind_eq_some_iff, afterStx_eq_some_iff]
  constructor
  · rintro ⟨_, ⟨i, hi, rfl⟩, h⟩
    obtain ⟨e, he, hinner⟩ := beforeEtx_drop_eq_some_iff.1 h
    exact ⟨i, e, hi, he, hinner⟩
  · rintro ⟨i, e, hi, he, hinner⟩
    exact ⟨_, ⟨i, hi, rfl⟩, beforeEtx_drop_eq_some_iff.2 ⟨e, he, hinner⟩⟩

theorem cutLast_of_lastBetween {r : Bytes} {d : Byte} {lo hi c : Nat} (h : LastBetween r d lo hi c) :
    cutLast d (slice r (lo + 1) hi) = some (slice r (lo + 1) c, slice r (c + 1) hi) := by
  rw [h.slice_eq, cutLast_append_cons _ h.not_mem]

/-- The cut at the last delimiter between two indices. -/
theorem cutLast_slice_eq_some_iff {r : Bytes} {d : Byte} {lo hi : Nat} {p : Bytes × Bytes} :
    cutLast d (slice r (lo + 1) hi) = some p ↔
      ∃ c, LastBetween r d lo hi c ∧ (slice r (lo + 1) c, slice r (c + 1) hi) = p :=
  scan_eq_some_iff (fun _ => cutLast_of_lastBetween) fun hno =>
    cutLast_of_not_mem fun hmem => hno (exists_lastBetween hmem)

/-! ## The frame (R142, R143) -/

/-- The frame of an STX at `i` whose CRC field stands strictly between `o` and `c`. -/
def cutFrame (cfg : Config) (r : Bytes) (i o c : Nat) : Frame where
  family := cfg.family
  addr := none
  payload := slice r (i + 1) o
  crcfield := some (slice r (o + 1) c)
  span := spanAt cfg r i o
  chkvalid := false

/-- The CRC span, built from the payload, is the one by indices (R142). -/
theorem crcSpan_slice {cfg : Config} {r : Bytes} {i o : Nat} (hi : r[i]? = some Ascii.stx)
    (ho : r[o]? = some cfg.family.delim) (hio : i < o) : crcSpan cfg (slice r (i + 1) o) = spanAt cfg r i o := by
  have hstx (j : Nat) (hj : i < j) : slice r i j = Ascii.stx :: slice r (i + 1) j := slice_eq_cons hi hj
  have hdelim : slice r (i + 1) (o + 1) = slice r (i + 1) o ++ [cfg.family.delim] := by
    rw [slice_eq_append_cons hio (Nat.lt_succ_self o) ho, slice_self]
  unfold crcSpan spanAt
  cases cfg.crcSpanStx <;> cases cfg.crcSpanDelim <;> simp [hstx, hdelim, hio, Nat.lt_succ_of_lt hio]

/-- The frame is cut at the last delimiter before the end of its CRC field, unless that field is empty (R143). -/
theorem blockFrame_slice_eq_some_iff {cfg : Config} {r : Bytes} {b : Byte} {i o c : Nat} {f : Frame}
    (hi : FirstAt r Ascii.stx 0 i) (ho : LastBetween r cfg.family.delim i c o) (hc : r[c]? = some b) :
    blockFrame cfg (slice r (i + 1) o) (slice r (o + 1) c) = some f ↔ o + 1 < c ∧ cutFrame cfg r i o c = f := by
  obtain ⟨-, hstx, -⟩ := hi
  obtain ⟨hio, -, hdelim, -⟩ := ho
  rw [blockFrame, Option.ite_none_left_eq_some, slice_eq_nil_iff (lt_length_of_getElem? hc).le, not_le,
    crcSpan_slice hstx hdelim hio, Option.some.injEq]
  rfl

/-! ## EXTRACT_BLOCK (R139) -/

/-- The indices at which a `BLOCK_COLON` frame is cut (R140). -/
abbrev ColonCut (r : Bytes) (i e c1 c2 : Nat) : Prop :=
  FirstAt r Ascii.stx 0 i ∧ FirstAt r Ascii.etx (i + 1) e ∧ LastBetween r Ascii.colon i e c1 ∧
    LastBetween r Ascii.colon i c1 c2 ∧ c2 + 1 < c1

/-- The indices at which a `BLOCK_SPACE` frame is cut (R144). -/
abbrev SpaceCut (r : Bytes) (i e c : Nat) : Prop :=
  FirstAt r Ascii.stx 0 i ∧ FirstAt r Ascii.etx (i + 1) e ∧ LastBetween r Ascii.space i e c ∧ c + 1 < e

theorem extractBc_eq_some_iff {cfg : Config} {r : Bytes} {f : Frame} (hf : cfg.family = .blockColon) :
    extractBc cfg r = some f ↔ ∃ i e c1 c2, ColonCut r i e c1 c2 ∧ cutFrame cfg r i c2 c1 = f := by
  have hdelim : Ascii.colon = cfg.family.delim := by rw [hf]; rfl
  simp only [extractBc, Option.bind_eq_some_iff, blockInner_eq_some_iff]
  constructor
  · rintro ⟨_, ⟨i, e, hi, he, rfl⟩, _, hcut1, _, hcut2, h⟩
    obtain ⟨c1, h1, rfl⟩ := cutLast_slice_eq_some_iff.1 hcut1
    obtain ⟨c2, h2, rfl⟩ := cutLast_slice_eq_some_iff.1 hcut2
    have ⟨_, _, hc1, _⟩ := h1
    obtain ⟨hlt, rfl⟩ := (blockFrame_slice_eq_some_iff hi (hdelim ▸ h2) hc1).1 h
    exact ⟨i, e, c1, c2, ⟨hi, he, h1, h2, hlt⟩, rfl⟩
  · rintro ⟨i, e, c1, c2, ⟨hi, he, h1, h2, hlt⟩, rfl⟩
    have ⟨_, _, hc1, _⟩ := h1
    exact ⟨_, ⟨i, e, hi, he, rfl⟩, _, cutLast_of_lastBetween h1, _, cutLast_of_lastBetween h2,
      (blockFrame_slice_eq_some_iff hi (hdelim ▸ h2) hc1).2 ⟨hlt, rfl⟩⟩

theorem extractBs_eq_some_iff {cfg : Config} {r : Bytes} {f : Frame} (hf : cfg.family = .blockSpace) :
    extractBs cfg r = some f ↔ ∃ i e c, SpaceCut r i e c ∧ cutFrame cfg r i c e = f := by
  have hdelim : Ascii.space = cfg.family.delim := by rw [hf]; rfl
  simp only [extractBs, Option.bind_eq_some_iff, blockInner_eq_some_iff]
  constructor
  · rintro ⟨_, ⟨i, e, hi, he, rfl⟩, _, hcut, h⟩
    obtain ⟨c, hc, rfl⟩ := cutLast_slice_eq_some_iff.1 hcut
    have ⟨_, hetx, _⟩ := he
    obtain ⟨hlt, rfl⟩ := (blockFrame_slice_eq_some_iff hi (hdelim ▸ hc) hetx).1 h
    exact ⟨i, e, c, ⟨hi, he, hc, hlt⟩, rfl⟩
  · rintro ⟨i, e, c, ⟨hi, he, hc, hlt⟩, rfl⟩
    have ⟨_, hetx, _⟩ := he
    exact ⟨_, ⟨i, e, hi, he, rfl⟩, _, cutLast_of_lastBetween hc,
      (blockFrame_slice_eq_some_iff hi (hdelim ▸ hc) hetx).2 ⟨hlt, rfl⟩⟩

theorem extractBc_eq_none {cfg : Config} {r : Bytes} (hf : cfg.family = .blockColon)
    (h : ¬ ∃ i e c1 c2, ColonCut r i e c1 c2) : extractBc cfg r = none :=
  Option.eq_none_iff_forall_ne_some.2 fun _ hsome =>
    let ⟨i, e, c1, c2, hcut, _⟩ := (extractBc_eq_some_iff hf).1 hsome
    h ⟨i, e, c1, c2, hcut⟩

theorem extractBs_eq_none {cfg : Config} {r : Bytes} (hf : cfg.family = .blockSpace)
    (h : ¬ ∃ i e c, SpaceCut r i e c) : extractBs cfg r = none :=
  Option.eq_none_iff_forall_ne_some.2 fun _ hsome =>
    let ⟨i, e, c, hcut, _⟩ := (extractBs_eq_some_iff hf).1 hsome
    h ⟨i, e, c, hcut⟩

end Sys2Proof.Machine
end

section
/-! PROOFS. The direct operations of the frame extractor (41_framing.md R139, R145): the statements O7, O8, O9 and O10. -/

namespace Sys2Proof.Machine

/-! ## Ending a frame (60_exceptions.md R260) -/

/-- `raise` field by field: the error reply queued, the outcome logged, the frame discarded. -/
theorem State.raise_eq (s : State) (o : OutcomeCode) (addr : Option Nat) :
    s.raise o addr =
      { s with txq := s.txq ++ errReply s.cfg o, outlog := s.outlog ++ [⟨o, addr, none⟩], frame := none } := rfl

/-- A MalformedFrame has no error reply (R261). -/
theorem State.raise_malformedFrame (s : State) (addr : Option Nat) :
    s.raise .malformedFrame addr =
      { s with outlog := s.outlog ++ [⟨.malformedFrame, addr, none⟩], frame := none } := by
  simp [State.raise_eq, errReply]

/-! ## EXTRACT_BLOCK -/

theorem exec_extractBlock_of_isLine {s : State} (r : Bytes) (h : s.cfg.family.isLine = true) :
    exec (.extractBlock r) s = .fault .noBlockFraming := by
  simp [exec, execExtractBlock, h]

theorem exec_extractBlock_of_some {s : State} {r : Bytes} {f : Frame} (hl : s.cfg.family.isLine = false)
    (hf : extractBlock s.cfg r = some f) : exec (.extractBlock r) s = .next { s with frame := some f } := by
  simp [exec, execExtractBlock, hl, hf]

theorem exec_extractBlock_of_none {s : State} {r : Bytes} (hl : s.cfg.family.isLine = false)
    (hf : extractBlock s.cfg r = none) : exec (.extractBlock r) s = .next (s.raise .malformedFrame none) := by
  simp [exec, execExtractBlock, hl, hf]

theorem extractBlock_of_blockColon {cfg : Config} (hf : cfg.family = .blockColon) (r : Bytes) :
    extractBlock cfg r = extractBc cfg r := by
  simp only [extractBlock, hf]

theorem extractBlock_of_blockSpace {cfg : Config} (hf : cfg.family = .blockSpace) (r : Bytes) :
    extractBlock cfg r = extractBs cfg r := by
  simp only [extractBlock, hf]

/-- Settles O7: at the rules' indices the extractor cuts `cutFrame` (`extractBc_eq_some_iff`, `extractBs_eq_some_iff`). -/
theorem extractBlockCutsByIndex : Obligations.ExtractBlockCutsByIndex := by
  refine ⟨fun s r i e c1 c2 hf hi he h1 h2 hlt => ⟨false, ?_⟩, fun s r i e c hf hi he hc hlt => ⟨false, ?_⟩⟩
  · have hcut := (extractBc_eq_some_iff hf).2 ⟨i, e, c1, c2, ⟨hi, he, h1, h2, hlt⟩, rfl⟩
    rw [exec_extractBlock_of_some (by rw [hf]; rfl) ((extractBlock_of_blockColon hf r).trans hcut), cutFrame, hf]
  · have hcut := (extractBs_eq_some_iff hf).2 ⟨i, e, c, ⟨hi, he, hc, hlt⟩, rfl⟩
    rw [exec_extractBlock_of_some (by rw [hf]; rfl) ((extractBlock_of_blockSpace hf r).trans hcut), cutFrame, hf]

/-- Settles O8: the extractor gives a frame at the rules' indices only (`extractBc_eq_none`, `extractBs_eq_none`). -/
theorem extractBlockMalformed : Obligations.ExtractBlockMalformed := by
  intro s r h
  rw [← State.raise_malformedFrame]
  rcases h with ⟨hf, hno⟩ | ⟨hf, hno⟩
  · exact exec_extractBlock_of_none (by rw [hf]; rfl) ((extractBlock_of_blockColon hf r).trans (extractBc_eq_none hf hno))
  · exact exec_extractBlock_of_none (by rw [hf]; rfl) ((extractBlock_of_blockSpace hf r).trans (extractBs_eq_none hf hno))

/-- Settles O9: the two families are the line families. -/
theorem extractBlockStopsInLineFamilies : Obligations.ExtractBlockStopsInLineFamilies :=
  fun s r h => exec_extractBlock_of_isLine r ((isLine_iff s.cfg.family).2 h)

/-! ## VERIFY_CRC -/

theorem chkvalidOf_iff {cfg : Config} {h span : Bytes} :
    chkvalidOf cfg h span = true ↔ parseHex4 h = some (crc16 cfg.crcXorout span) := by
  simp [chkvalidOf]

/-- The CRC unit runs where the field is HEX4, whatever its value. -/
theorem State.runVerifyCrc_of_some {h : Bytes} {w : Half} (s : State) (span : Bytes) (hw : parseHex4 h = some w) :
    s.runVerifyCrc h span = s.runCrc span := by
  simp [State.runVerifyCrc, hw]

theorem State.runVerifyCrc_of_none {h : Bytes} (s : State) (span : Bytes) (hn : parseHex4 h = none) :
    s.runVerifyCrc h span = s := by
  simp [State.runVerifyCrc, hn]

theorem exec_verifyCrc_accepts {s : State} {h span : Bytes} (hv : chkvalidOf s.cfg h span = true) :
    exec (.verifyCrc h span) s =
      .next { s.runVerifyCrc h span with
        frame := (s.runVerifyCrc h span).frame.map fun f => { f with chkvalid := true } } := by
  simp [exec, execVerifyCrc, hv]

theorem exec_verifyCrc_raises {s : State} {h span : Bytes} (hv : ¬ chkvalidOf s.cfg h span = true) :
    exec (.verifyCrc h span) s =
      .next ((s.runVerifyCrc h span).raise .checksumMismatch (s.frame.bind (·.addr))) := by
  simp [exec, execVerifyCrc, hv]

/-- Settles O10: the field is the span's CRC, another HEX4 value, or no HEX4. -/
theorem verifyCrcAcceptsOrRaises : Obligations.VerifyCrcAcceptsOrRaises := by
  refine fun s h span => ⟨fun hright => ?_, fun w hw hwrong => ?_, fun hnone => ?_⟩
  · rw [exec_verifyCrc_accepts (chkvalidOf_iff.2 hright), State.runVerifyCrc_of_some s span hright]
    rfl
  · have hv : ¬ chkvalidOf s.cfg h span = true := fun e => hwrong (Option.some.inj (hw.symm.trans (chkvalidOf_iff.1 e)))
    rw [exec_verifyCrc_raises hv, State.runVerifyCrc_of_some s span hw]
    rfl
  · have hv : ¬ chkvalidOf s.cfg h span = true := fun e => by
      have := chkvalidOf_iff.1 e
      rw [hnone] at this
      cases this
    rw [exec_verifyCrc_raises hv, State.runVerifyCrc_of_none s span hnone]
    rfl

end Sys2Proof.Machine
end

section
/-! PROOFS. A data byte (41_framing.md R131, R132, R134), and the step of each agent's move (60_exceptions.md R273): the
statements O37, O38, O46 and O48. -/

namespace Sys2Proof.Machine

/-! ## Data bytes -/

theorem exec_rxByte_of_data {b : Byte} {s : State} (hs : s.shutdown = false)
    (ht : s.cfg.family.isTerminator b = false) : exec (.rxByte b) s = .next (receiveData b s) := by
  simp [exec, execRxByte, hs, ht]

theorem exec_rxByte_of_shutdown {s : State} (b : Byte) (h : s.shutdown = true) : exec (.rxByte b) s = .next s := by
  simp [exec, execRxByte, h]

theorem receiveData_of_discarding {s : State} (b : Byte) (h : s.rxdisc = true) : receiveData b s = s := if_pos h

theorem receiveData_of_room {s : State} (b : Byte) (hd : s.rxdisc = false) (hr : s.rxbuf.length ≠ s.cfg.rxbufMax) :
    receiveData b s = s.setRx (s.rxbuf ++ [b]) false := by
  simp [receiveData, hd, hr]

theorem receiveData_of_full {s : State} (b : Byte) (hd : s.rxdisc = false) (hl : s.rxbuf.length = s.cfg.rxbufMax) :
    receiveData b s = overflow b s := by
  simp [receiveData, hd, hl]

theorem overflow_of_skip {s : State} (b : Byte) (h : s.cfg.overflowResync = .skipToTerminator) :
    overflow b s = (s.log .overflow none none).setRx [] true := by
  simp only [overflow, h]

theorem overflow_of_restart {s : State} (b : Byte) (h : s.cfg.overflowResync = .restart) :
    overflow b s = (s.log .overflow none none).setRx [b] s.rxdisc := by
  simp only [overflow, h]

/-- Settles O37: the first and the last case of `receiveData`. -/
theorem rxByteStoresData : Obligations.RxByteStoresData := by
  intro b s hs ht
  rw [exec_rxByte_of_data hs ht]
  refine ⟨fun hd => by rw [receiveData_of_discarding b hd], fun hd hroom => ?_⟩
  rw [receiveData_of_room b hd hroom, State.setRx, hd]

/-- Settles O38: the case of a full buffer, under either value of `OVERFLOW_RESYNC`. -/
theorem rxByteOverflows : Obligations.RxByteOverflows := by
  intro b s hs ht hd hfull
  rw [exec_rxByte_of_data hs ht, receiveData_of_full b hd hfull]
  refine ⟨fun hskip => ?_, fun hrestart => ?_⟩
  · rw [overflow_of_skip b hskip]
    rfl
  · rw [overflow_of_restart b hrestart]
    rfl

/-! ## Moves -/

theorem step_of_idle {s : State} (h : s.inbox = []) : step s = .next s := by
  simp only [step, h]

theorem step_of_move {s : State} {m : Move} {rest : List Move} (h : s.inbox = m :: rest) :
    step s = stepMove m { s with inbox := rest } := by
  simp only [step, h]

theorem stepMove_port_of_ok {s : State} {p : Port} {data : List Bytes} {i : Instr}
    (h : decode s.cfg (.port p data) = .ok i) : stepMove (.port p data) s = exec i s := by
  simp only [stepMove, h]

theorem stepMove_port_of_error {s : State} {p : Port} {data : List Bytes} {e : Reject}
    (h : decode s.cfg (.port p data) = .error e) : stepMove (.port p data) s = .fault .portData := by
  simp only [stepMove, h]

/-- Settles O46: the two results of the decoder. -/
theorem stepRunsThePortOperation : Obligations.StepRunsThePortOperation :=
  fun s _ _ rest h =>
    ⟨fun _ hok => (step_of_move h).trans (stepMove_port_of_ok (s := { s with inbox := rest }) hok),
      fun _ herr => (step_of_move h).trans (stepMove_port_of_error (s := { s with inbox := rest }) herr)⟩

/-- Settles O48: one move of each agent, the empty inbox, and a byte after SHUTDOWN. -/
theorem environmentMoves : Obligations.EnvironmentMoves :=
  fun _ _ => ⟨step_of_idle, step_of_move (m := .noByte), fun dt feed => step_of_move (m := .sender dt feed),
    step_of_move (m := .shutdown), step_of_move (m := .transmit), exec_rxByte_of_shutdown⟩

end Sys2Proof.Machine
end

section
/-! PROOFS. The outcomes of a frame step before its command (43_dispatch.md R199): the statements O41, O43 and O44. -/

namespace Sys2Proof.Machine

/-! ## MalformedFrame (60_exceptions.md R261) -/

theorem frameStep_of_not_located {raw : Bytes} {s : State} (h : locateFrame s.cfg raw = none) :
    frameStep raw s = .next (s.raise .malformedFrame none) := by
  simp only [frameStep, h]

/-- The address of a `BLOCK_COLON` payload is read off what stands between its first two colons (42_tokenizer.md R167). -/
theorem bcAddr_eq_parseUint (p : Bytes) :
    bcAddr p = parseUint (((p.dropWhile (· != Ascii.colon)).drop 1).takeWhile (· != Ascii.colon)) := by
  have hkeep {f : Bytes} (hf : Ascii.colon ∉ f) : ∀ b ∈ f, (b != Ascii.colon) = true := fun b hb =>
    bne_iff_ne.2 fun e => hf (e ▸ hb)
  by_cases hp : Ascii.colon ∈ p
  · obtain ⟨kw, rest, rfl, hkw⟩ := List.eq_append_cons_of_mem hp
    obtain ⟨id, fields, hrest⟩ := List.exists_cons_of_ne_nil (pieces_ne_nil Ascii.colon rest)
    have hid : rest.takeWhile (· != Ascii.colon) = id := by
      by_cases hr : Ascii.colon ∈ rest
      · obtain ⟨id', rest', rfl, hid'⟩ := List.eq_append_cons_of_mem hr
        rw [pieces_append_cons rest' hid', List.cons.injEq] at hrest
        rw [List.takeWhile_append_of_pos (hkeep hid')]
        simpa using hrest.1
      · rw [pieces_of_not_mem hr, List.cons.injEq] at hrest
        rw [List.takeWhile_eq_self_iff.2 (hkeep hr), hrest.1]
    have hsplit : split (kw ++ Ascii.colon :: rest) Ascii.colon = kw :: id :: fields := by
      rw [split_of_ne_nil _ (by simp), pieces_append_cons rest hkw, hrest]
    rw [bcAddr_of_split hsplit, dropWhile_ne_append_cons rest hkw, List.drop_succ_cons, List.drop_zero, hid]
  · have hnone : bcAddr p = none := by
      by_cases hnil : p = []
      · rw [hnil]; rfl
      · simp only [bcAddr, split_of_ne_nil _ hnil, pieces_of_not_mem hp]
    rw [hnone, List.dropWhile_eq_nil_iff.2 (hkeep hp)]
    rfl

/-- UINT reads nothing off an empty string or off one with another byte than a digit (30_encoding.md R89). -/
theorem parseUint_eq_none {bs : Bytes} (h : bs = [] ∨ ∃ b ∈ bs, ¬ isDigit b = true) : parseUint bs = none := by
  refine Option.eq_none_iff_forall_ne_some.2 fun n hn => ?_
  obtain ⟨hne, hdigits, -⟩ := parseUint_eq_some_iff.1 hn
  rcases h with hnil | ⟨b, hb, hnot⟩
  · exact hne hnil
  · exact hnot (hdigits b hb)

/-- A `BLOCK_COLON` frame whose bytes are cut is located with the address of its payload, if that has one. -/
theorem locateFrame_of_colonCut {cfg : Config} {r : Bytes} {i e c1 c2 : Nat} (hf : cfg.family = .blockColon)
    (hcut : ColonCut r i e c1 c2) :
    locateFrame cfg r =
      (bcAddr (slice r (i + 1) c2)).map fun a => { cutFrame cfg r i c2 c1 with addr := some a } := by
  rw [locateFrame_blockColon hf, (extractBc_eq_some_iff hf).2 ⟨i, e, c1, c2, hcut, rfl⟩, Option.bind_some]
  rfl

/-- Settles O41: a MalformedFrame is a frame that is not located; the frames that are not are those that the extractor
does not cut (`extractBs_eq_none`, `extractBc_eq_none`) or whose second field is no ADDR (`bcAddr_eq_parseUint`). -/
theorem malformedFrameOnlyLogs : Obligations.MalformedFrameOnlyLogs := by
  intro b s hb r malformed cut
  have hmal (h : locateFrame s.cfg r = none) : malformed :=
    (exec_rxByte_of_completesFrame hb).trans
      ((frameStep_of_not_located (s := s.taken) h).trans (congrArg _ (State.raise_malformedFrame _ _)))
  refine ⟨hmal, fun hf hno => hmal ?_, fun hf hno => hmal ?_, fun hf i e c1 c2 hcut => ?_⟩
  · rw [locateFrame_blockSpace hf, extractBs_eq_none hf hno]
  · rw [locateFrame_blockColon hf, extractBc_eq_none hf hno, Option.bind_none]
  · intro payload idField
    have hloc := locateFrame_of_colonCut hf hcut
    rw [bcAddr_eq_parseUint] at hloc
    simp only [← isDigit_iff, ← decimal_eq_ofDigits]
    refine ⟨fun hbad => hmal ?_, fun hne hdigits => ?_⟩
    · rw [hloc, parseUint_eq_none hbad, Option.map_none]
    · rw [hloc, parseUint_eq_some_iff.2 ⟨hne, hdigits, rfl⟩]
      exact ⟨_, rfl, rfl, rfl, rfl, rfl⟩

/-! ## ChecksumMismatch (60_exceptions.md R262) -/

/-- A checking target is a target. -/
theorem targets_ne_nil_of_checks {s : State} {a : Option Nat}
    (h : ∃ d v, d ∈ targets s a ∧ s.devs[d]? = some v ∧ v.chkEn = true) : targets s a ≠ [] := by
  obtain ⟨d, v, hd, -⟩ := h
  exact List.ne_nil_of_mem hd

theorem chkvalidOf_eq_false {cfg : Config} {f : Frame} (h : ¬ CrcRight cfg f) :
    chkvalidOf cfg (f.crcfield.getD []) f.span = false := by
  refine Bool.eq_false_iff.2 fun hv => h ?_
  have hhex := chkvalidOf_iff.1 hv
  cases hfield : f.crcfield with
  | none =>
    rw [hfield] at hhex
    cases hhex
  | some t => exact ⟨t, hfield, by simpa [hfield] using hhex⟩

/-- A block frame whose CRC is wrong ends in a ChecksumMismatch (41_framing.md R145). -/
theorem checkBlock_failed {f : Frame} {ts : List Nat} {s : State} (ha : chkApplies s ts = true)
    (hw : ¬ CrcRight s.cfg f) :
    checkBlock f ts s =
      .next ((s.runVerifyCrc (f.crcfield.getD []) f.span).raise .checksumMismatch f.addr) := by
  simp [checkBlock, ha, chkvalidOf_eq_false hw]

/-- VERIFY_CRC touches the CRC unit only. -/
theorem State.runVerifyCrc_only_crc (s : State) (h span : Bytes) :
    ∃ x y, s.runVerifyCrc h span = { s with crcr := x, crcOut := y } := by
  unfold State.runVerifyCrc
  split
  · exact ⟨_, _, rfl⟩
  · exact ⟨s.crcr, s.crcOut, rfl⟩

/-- Settles O43: the checksum stage of a block frame (`checkBlock_failed`), on the CRC unit's registers alone. -/
theorem wrongCrcIsAChecksumMismatch : Obligations.WrongCrcIsAChecksumMismatch := by
  intro b s f hb hblock hf hchk hwrong
  have ha : chkApplies s.taken (targets s f.addr) = true := (chkApplies_iff s.taken _).2 hchk
  obtain ⟨x, y, hcrc⟩ := s.taken.runVerifyCrc_only_crc (f.crcfield.getD []) f.span
  refine ⟨x, y, ?_⟩
  rw [exec_rxByte_of_completesFrame hb, frameStep_of_located (s := s.taken) hf (targets_ne_nil_of_checks hchk),
    if_neg (by simp [hblock])]
  exact (checkBlock_failed (s := s.taken) ha hwrong).trans (by rw [hcrc]; rfl)

/-- A line that fails its check ends in a ChecksumMismatch (41_framing.md R138). -/
theorem checkLine_failed {line : Bytes} {f : Frame} {ts : List Nat} {s : State} {chk : LineCheck}
    (hc : s.cfg.lineCheck = some chk) (ha : chkApplies s ts = true) (hp : chk.passes line = false) :
    checkLine line f ts s = .next (s.raise .checksumMismatch f.addr) := by
  simp [checkLine, hc, ha, hp]

/-! ## The command of a checked payload -/

/-- A payload without a command is an UnknownCommand (60_exceptions.md R263). -/
theorem runPayload_of_unknown {addr : Option Nat} {p : Bytes} {s : State} (h : tokenize s.cfg addr p = none) :
    runPayload addr p s = .next (s.raise .unknownCommand addr) := by
  simp only [runPayload, h]

/-- A command runs as the row of the opcode table that it is (43_dispatch.md R191). -/
theorem execCmd_of_instrOf {c : Cmd} {i : Instr} (s : State) (h : instrOf c = .ok i) : execCmd c s = exec i s := by
  obtain ⟨kind, a⟩ := c
  cases kind with
  | autosend =>
    cases hq : a.query <;> simp only [instrOf, hq] at h <;> cases h <;> simp [execCmd, exec, hq]
  | configured n => cases h
  | _ => cases h; rfl

/-- Settles O44: a line under its check is a ChecksumMismatch (`checkLine_failed`), or goes on with the stripped payload
(`checkLine_passed`), which has no command or one that runs as its row. -/
theorem lineCheckDecidesTheLine : Obligations.LineCheckDecidesTheLine := by
  intro b s f chk hb hline hf hlc hchk payload
  have ha : chkApplies s.taken (targets s f.addr) = true := (chkApplies_iff s.taken _).2 hchk
  have hframe : exec (.rxByte b) s = checkLine s.rxbuf f (targets s f.addr) s.taken := by
    have hraw : pendingFrame s b = s.rxbuf := if_pos hline
    rw [exec_rxByte_of_completesFrame hb, frameStep_of_located (s := s.taken) hf (targets_ne_nil_of_checks hchk), hraw]
    exact if_pos hline
  have hpassed (hp : chk.passes s.rxbuf = true) : exec (.rxByte b) s = runPayload f.addr payload s.taken :=
    hframe.trans (checkLine_passed (s := s.taken) hlc ha hp)
  refine ⟨fun hp hno => ?_, fun c hp ht => ⟨fun i hi => ?_, fun _ => ?_⟩, fun hp => ?_⟩
  · have hne : s.cfg.family ≠ .blockColon := fun e => by rw [e] at hline; cases hline
    have ht : tokenize s.cfg f.addr payload = none :=
      (tokenize_eq_tokenizeTail hne _ _).trans (tokenizeTail_of_noMatch _ hno)
    rw [hpassed hp, runPayload_of_unknown (s := s.taken) ht]
    rfl
  · rw [hpassed hp, runPayload_of_tokenize (s := s.taken) ht, execCmd_of_instrOf s.taken hi]
  · rw [hpassed hp, runPayload_of_tokenize (s := s.taken) ht]
  · rw [hframe, checkLine_failed (s := s.taken) hlc ha hp]
    rfl

end Sys2Proof.Machine
end

section
/-! PROOFS. The longest keyword before a boundary, in either case of the letters (42_tokenizer.md R160, R162), and the
default tables of R161, whose words decode: the statements O15 and O14. -/

namespace Sys2Proof

/-! ## The table in force (R161) -/

theorem mem_table_iff {cfg : Config} {e : Bytes × Kind} :
    e ∈ cfg.table ↔
      e ∈ cfg.keywords ∨ (cfg.kwFmask = some e.1 ∧ e.2 = .fmask) ∨ (cfg.kwCal = some e.1 ∧ e.2 = .cal) := by
  obtain ⟨k, kind⟩ := e
  simp [Config.table, eq_comm]

/-- The default tables are plain, and FMASK and CAL are not configured. -/
theorem plainTable_forFamily (f : Family) : (Config.forFamily f).plainTable := by
  cases f <;> decide

/-! ## Where a keyword stands (R160, R162) -/

theorem isBoundary_iff (f : Family) (b : Byte) :
    f.isBoundary b = true ↔ b ∈ [0x20#8, 0x09#8, 0x3F#8, 0x3D#8, f.delim] := by
  simp [Family.isBoundary, or_assoc]

theorem keywordAt_iff_getElem? {f : Family} {p k : Bytes} :
    keywordAt f p k = true ↔ k.length ≤ p.length ∧ foldBytes (p.take k.length) = foldBytes k ∧
      ∀ c, p[k.length]? = some c → c ∈ [0x20#8, 0x09#8, 0x3F#8, 0x3D#8, f.delim] := by
  simp only [keywordAt_iff_take_drop, List.head?_drop, Option.mem_def, isBoundary_iff]

theorem length_foldBytes (p : Bytes) : (foldBytes p).length = p.length :=
  List.length_map foldByte

theorem take_foldBytes (p : Bytes) (n : Nat) : (foldBytes p).take n = foldBytes (p.take n) :=
  List.map_take.symm

/-- The length, the word and the boundary after it are all read through `fold`. -/
theorem keywordAt_foldBytes (f : Family) (p k : Bytes) : keywordAt f (foldBytes p) k = keywordAt f p k := by
  have hnext : (foldBytes p)[k.length]? = p[k.length]?.map foldByte := List.getElem?_map
  rw [keywordAt, keywordAt, length_foldBytes, take_foldBytes, foldBytes_foldBytes, hnext]
  cases p[k.length]? with
  | none => rfl
  | some c => simp only [Option.map_some, isBoundary_foldByte]

/-- Nothing but an empty keyword stands in the empty string. -/
theorem not_keywordAt_nil {f : Family} {k : Bytes} (hk : k ≠ []) : ¬ keywordAt f [] k = true := fun h =>
  hk (List.eq_nil_of_length_eq_zero (Nat.le_zero.1 (keywordAt_iff_take_drop.1 h).1))

/-! ## The longest candidate -/

theorem longer_some (b e : Bytes × Kind) :
    longer (some b) e = some (if b.1.length < e.1.length then e else b) := by
  rw [longer]
  split <;> rfl

/-- The candidate kept is one of those seen, and none of them is longer. -/
theorem foldl_longer_some (l : List (Bytes × Kind)) (b : Bytes × Kind) :
    ∃ e ∈ b :: l, l.foldl longer (some b) = some e ∧ ∀ x ∈ b :: l, x.1.length ≤ e.1.length := by
  induction l generalizing b with
  | nil => exact ⟨b, by simp⟩
  | cons y l ih =>
    rw [List.foldl_cons, longer_some]
    split
    · next hlt =>
      obtain ⟨e, he, hfold, hmax⟩ := ih y
      have hy := hmax y List.mem_cons_self
      exact ⟨e, List.mem_cons_of_mem b he, hfold, List.forall_mem_cons.2 ⟨by omega, hmax⟩⟩
    · next hle =>
      obtain ⟨e, he, hfold, hmax⟩ := ih b
      obtain ⟨hb, hl⟩ := List.forall_mem_cons.1 hmax
      refine ⟨e, ?_, hfold, List.forall_mem_cons.2 ⟨hb, List.forall_mem_cons.2 ⟨by omega, hl⟩⟩⟩
      obtain rfl | he := List.mem_cons.1 he
      · exact List.mem_cons_self
      · exact List.mem_cons_of_mem b (List.mem_cons_of_mem y he)

theorem foldl_longer_eq_some {l : List (Bytes × Kind)} {e : Bytes × Kind} (h : l.foldl longer none = some e) :
    e ∈ l ∧ ∀ x ∈ l, x.1.length ≤ e.1.length := by
  cases l with
  | nil => cases h
  | cons b l =>
    obtain ⟨e', hmem, hfold, hmax⟩ := foldl_longer_some l b
    obtain rfl : e' = e := Option.some.inj (hfold.symm.trans h)
    exact ⟨hmem, hmax⟩

theorem foldl_longer_eq_none_iff {l : List (Bytes × Kind)} : l.foldl longer none = none ↔ l = [] := by
  cases l with
  | nil => simp
  | cons b l =>
    obtain ⟨e, -, hfold, -⟩ := foldl_longer_some l b
    have hsome : (b :: l).foldl longer none = some e := hfold
    simp [hsome]

/-! ## `match_keyword` (R160) -/

theorem matchKeyword_eq_some {cfg : Config} {p : Bytes} {e : Bytes × Kind} (h : matchKeyword cfg p = some e) :
    e ∈ cfg.table ∧ keywordAt cfg.family p e.1 = true ∧
      ∀ x ∈ cfg.table, keywordAt cfg.family p x.1 = true → x.1.length ≤ e.1.length := by
  obtain ⟨hmem, hmax⟩ := foldl_longer_eq_some h
  obtain ⟨htable, hat⟩ := List.mem_filter.1 hmem
  exact ⟨htable, hat, fun x hx hxat => hmax x (List.mem_filter.2 ⟨hx, hxat⟩)⟩

theorem matchKeyword_eq_none_iff {cfg : Config} {p : Bytes} :
    matchKeyword cfg p = none ↔ ∀ e ∈ cfg.table, ¬ keywordAt cfg.family p e.1 = true :=
  foldl_longer_eq_none_iff.trans List.filter_eq_nil_iff

theorem matchKeyword_foldBytes (cfg : Config) (p : Bytes) : matchKeyword cfg (foldBytes p) = matchKeyword cfg p := by
  simp only [matchKeyword, keywordAt_foldBytes]

theorem foldByte_eq_ite (b : Byte) : foldByte b = if 0x61#8 ≤ b ∧ b ≤ 0x7A#8 then b &&& 0xDF#8 else b := by
  simp only [foldByte, Bool.and_eq_true, decide_eq_true_eq]

/-- Settles O15: the fold over the candidates keeps a longest one (`foldl_longer_some`), and each candidate's place is
read through `fold` (`keywordAt_foldBytes`). -/
theorem keywordMatchIsLongestInAnyCase : Obligations.KeywordMatchIsLongestInAnyCase := by
  intro cfg p stands
  have hstands (k : Bytes) : keywordAt cfg.family p k = true ↔ stands k := keywordAt_iff_getElem?
  refine ⟨fun k kind hm => ?_, ?_, fun q hpq => ?_, fun hwf => ?_, foldByte_eq_ite, fun _ => mem_table_iff⟩
  · obtain ⟨htable, hat, hmax⟩ := matchKeyword_eq_some hm
    exact ⟨htable, (hstands k).1 hat, fun e he hse => hmax e he ((hstands e.1).2 hse)⟩
  · simp only [matchKeyword_eq_none_iff, hstands]
  · rw [← matchKeyword_foldBytes, hpq, matchKeyword_foldBytes]
  · obtain ⟨-, -, -, -, -, -, -, hascii⟩ := hwf
    exact matchKeyword_eq_none_iff.2 fun e he => not_keywordAt_nil (hascii e he).1

/-! ## Words of the spec -/

/-- What the encoder writes for an instruction that a default table can carry decodes to it (O13). -/
theorem decode_forFamily_of_encode {f : Family} {w : Encoded} {i : Instr}
    (hi : i.wellFormed (Config.forFamily f) = true) (hw : encode (Config.forFamily f) i = w) :
    decode (Config.forFamily f) w = .ok i :=
  hw ▸ decodeOfEncode _ i (plainTable_forFamily f) hi

/-- Settles O14: the accepted words are the encoder's (`decode_forFamily_of_encode`), with the checksum it computes in
the block families; in `RES`, where `R` stands before no boundary, no keyword is found (42_tokenizer.md R164). -/
theorem sampleWordsDecode : Obligations.SampleWordsDecode :=
  ⟨decode_forFamily_of_encode (by decide) (by decide), decode_forFamily_of_encode (by decide) (by decide +kernel),
    decode_forFamily_of_encode (by decide) (by decide +kernel), decode_forFamily_of_encode (by decide) (by decide),
    by decide, decode_forFamily_of_encode (by decide) (by decide)⟩

end Sys2Proof
end

section
/-! PROOFS. What stands before and after a command: the layout of its reply (43_dispatch.md R197), its targets (R190), the
mode commands on them (R196), and the step that runs a frame's command (R199): the statements O12, O19, O32 and O47. -/

namespace Sys2Proof.Machine

/-! ## Replies (R197) -/

theorem frameReply_of_isLine {cfg : Config} (addr : Nat) (p : Bytes) (h : cfg.family.isLine = true) :
    frameReply cfg addr p = cfg.replyPrefix addr ++ p ++ cfg.replyTerm := if_pos h

theorem frameReply_of_isBlock {cfg : Config} (addr : Nat) (p : Bytes) (h : cfg.family.isLine = false) :
    frameReply cfg addr p = frameBlock cfg p := by
  simp [frameReply, h]

/-- What either block family frames around a payload, EXTRACT_BLOCK reads back. -/
theorem extractBlock_frameBlock {cfg : Config} {p : Bytes} (hf : cfg.family = .blockColon ∨ cfg.family = .blockSpace)
    (hp : Ascii.etx ∉ p) : extractBlock cfg (frameBlock cfg p) = some (builtFrame cfg p) := by
  rcases hf with hf | hf
  · rw [extractBlock_of_blockColon hf, extractBc_frameBlock hf hp]
  · rw [extractBlock_of_blockSpace hf, extractBs_frameBlock hf hp]

theorem crcRight_builtFrame (cfg : Config) (p : Bytes) : CrcRight cfg (builtFrame cfg p) :=
  ⟨_, rfl, parseHex4_eq_some_iff.2 (foldBytes_hex4 _)⟩

/-- Settles O12: a block reply is the encoder's block frame, which the extractor cuts into `builtFrame`. -/
theorem replyFramingAndReadBack : Obligations.ReplyFramingAndReadBack := by
  intro s addr p
  refine ⟨fun hf => ?_, fun hf => ?_, fun hf => ?_, fun hf hp => ?_⟩
  · exact frameReply_of_isLine addr p ((isLine_iff _).2 hf)
  · rw [frameReply_of_isBlock addr p (by rw [hf]; rfl)]
    simp [frameBlock, crcSpan, Family.delim, hf]
  · rw [frameReply_of_isBlock addr p (by rw [hf]; rfl)]
    simp [frameBlock, crcSpan, Family.delim, hf]
  · have hblock : s.cfg.family.isLine = false := by rcases hf with hf | hf <;> rw [hf] <;> rfl
    rw [frameReply_of_isBlock addr p hblock]
    exact ⟨_, exec_extractBlock_of_some hblock (extractBlock_frameBlock hf hp), rfl, rfl, crcRight_builtFrame s.cfg p⟩

/-! ## Targets (R190) -/

theorem targets_of_addr0 {s : State} {a : Option Nat} (ha : a.getD 0 = 0) (hu : s.cfg.unaddressedTarget = .addr0) :
    targets s a = (tabGet s.atab 0).toList := by
  simp [targets, ha, hu]

theorem targets_of_broadcast {s : State} {a : Option Nat} (ha : a.getD 0 = 0)
    (hu : s.cfg.unaddressedTarget = .broadcast) :
    targets s a = (List.range (s.cfg.addrMax + 1)).filterMap (tabGet s.atab) := by
  simp [targets, ha, hu]

theorem targets_of_defaultDev {s : State} {a : Option Nat} (ha : a.getD 0 = 0)
    (hu : s.cfg.unaddressedTarget = .defaultDev) : targets s a = [s.cfg.defaultDev] := by
  simp [targets, ha, hu]

theorem targets_of_beyond {s : State} {a : Option Nat} (h : s.cfg.addrMax < a.getD 0) (ha : a.getD 0 ≠ 0) :
    targets s a = [] := by
  simp [targets, ha, h]

theorem targets_of_within {s : State} {a : Option Nat} (h : a.getD 0 ≤ s.cfg.addrMax) (ha : a.getD 0 ≠ 0) :
    targets s a = (tabGet s.atab (a.getD 0)).toList := by
  simp [targets, ha, Nat.not_lt.2 h]

/-- `filterMap` pairs the arguments that have a value with these values, in their order. -/
theorem forall₂_filter_filterMap (f : Nat → Option Nat) (l : List Nat) :
    List.Forall₂ (fun x e => f x = some e) (l.filter fun x => (f x).isSome) (l.filterMap f) := by
  induction l with
  | nil => exact .nil
  | cons x l ih =>
    cases hx : f x with
    | none => simpa [hx] using ih
    | some e => simpa [hx] using ih

/-- Settles O19: one equation of `targets` for each case of the rule. -/
theorem targetsOfAnAddress : Obligations.TargetsOfAnAddress := by
  intro s a d
  refine ⟨rfl, fun ha hu => ?_, fun ha hu => ?_, targets_of_defaultDev, fun ha => ?_, fun ha => ?_⟩
  · rw [targets_of_addr0 ha hu]
    exact ⟨Option.toList_eq_singleton_iff, Option.toList_eq_nil_iff⟩
  · rw [targets_of_broadcast ha hu]
    refine ⟨_, List.pairwise_lt_range.filter _, fun x => ?_, forall₂_filter_filterMap _ _⟩
    simp [Option.isSome_iff_ne_none]
  · rcases Nat.lt_or_ge s.cfg.addrMax (a.getD 0) with hb | hb
    · simp [targets_of_beyond hb ha, hb]
    · rw [targets_of_within hb ha, Option.toList_eq_singleton_iff, and_iff_right hb]
  · rcases Nat.lt_or_ge s.cfg.addrMax (a.getD 0) with hb | hb
    · simp [targets_of_beyond hb ha, hb]
    · rw [targets_of_within hb ha, Option.toList_eq_nil_iff, or_iff_right (Nat.not_lt.2 hb)]

/-! ## The mode commands (R196) -/

theorem repliesOf_none (devs : List Dev) (ts : List Nat) : repliesOf devs ts (fun _ => none) = [] := by
  simp [repliesOf]

/-- A mode command has no reply and rejects nothing. -/
theorem modeResult_eq (s : State) (c : Cmd) (m : Mode) :
    modeResult s c m =
      { s with
        devs := updateAll s.devs (targets s c.args.addr) fun v => { v with mode := m }
        wake := true
        outlog := s.outlog ++ [⟨.ok, c.args.addr, some c.kind⟩]
        frame := none } := by
  have hrej : ((targets s c.args.addr).any fun d => (s.devs[d]?.map fun _ => false).getD false) = false := by
    simp [List.any_eq_false, Option.getD_eq_iff]
  simp [modeResult, dispatchAll, repliesOf_none, hrej]

theorem dispatch_modeRule {c : Cmd} {s : State} (m : Mode) (hg : GoodTargets s c.args.addr) :
    dispatch c (fun _ => modeRule m) s = modeResult s c m :=
  dispatch_eq_dispatchAll (fun _ => modeRule_actsAs s.cfg m) hg

/-- Settles O32: the four commands are the one mode rule. -/
theorem modeCommandsSetModeAndWake : Obligations.ModeCommandsSetModeAndWake := by
  intro a s hg
  have hmode (k : Kind) (m : Mode) := (dispatch_modeRule (c := ⟨k, a⟩) m hg).trans (modeResult_eq s ⟨k, a⟩ m)
  exact ⟨congrArg Host.Outcome.next (hmode .start .continuous), congrArg Host.Outcome.next (hmode .run .continuous),
    congrArg Host.Outcome.next (hmode .stop .stopped), congrArg Host.Outcome.next (hmode .poll .polled)⟩

/-! ## The step of a frame's terminator (R199) -/

/-- A delivered byte runs RX_BYTE. -/
theorem step_of_deliver {s : State} {b : Byte} {rest : List Move} (h : s.inbox = deliver b :: rest) :
    step s = exec (.rxByte b) { s with inbox := rest } := step_of_move h

/-- A decoded frame is located, and its payload is the command of the decoded row. -/
theorem tokenize_of_decode_wire {cfg : Config} {raw : Bytes} {f : Frame} {i : Instr} (hf : locateFrame cfg raw = some f)
    (h : decode cfg (.wire raw) = .ok i) : ∃ c, tokenize cfg f.addr f.payload = some c ∧ instrOf c = .ok i := by
  simp only [decode, decodeFrame, hf] at h
  cases ht : tokenize cfg f.addr f.payload with
  | none =>
    rw [ht] at h
    cases h
  | some c =>
    rw [ht] at h
    exact ⟨c, rfl, h⟩

/-- Settles O47: the checksum stage hands the payload on, unchecked or after the CRC unit's run, and its command runs as
its row (`execCmd_of_instrOf`). -/
theorem stepRunsTheDecodedCommand : Obligations.StepRunsTheDecodedCommand := by
  intro s b rest i f hinbox hb hf hdec ht
  obtain ⟨c, htok, hrow⟩ := tokenize_of_decode_wire hf hdec
  have hrun (t : State) (hcfg : t.cfg = s.cfg) : runPayload f.addr f.payload t = exec i t :=
    (runPayload_of_tokenize (by rw [hcfg]; exact htok)).trans (execCmd_of_instrOf t hrow)
  set t : State := { s.taken with inbox := rest }
  have hframe : step s =
      if s.cfg.family.isLine then checkLine (pendingFrame s b) f (targets s f.addr) t
      else checkBlock f (targets s f.addr) t := by
    rw [step_of_deliver hinbox, exec_rxByte_of_completesFrame (s := { s with inbox := rest }) hb]
    exact frameStep_of_located (s := t) hf ht
  rw [hframe]
  refine ⟨fun hun => ?_, fun hblock hchk hcrc => ?_⟩
  · cases hl : s.cfg.family.isLine with
    | true => exact (checkLine_unchecked (s := t) (hun.imp_right And.right)).trans (hrun t rfl)
    | false =>
      have hno : chkApplies t (targets s f.addr) = false := hun.resolve_right fun h => by simp [hl] at h
      exact (checkBlock_unchecked hno).trans (hrun t rfl)
  · rw [if_neg (by simp [hblock])]
    exact (checkBlock_passed (s := t) hchk hcrc).trans (hrun (t.runCrc f.span) rfl)

end Sys2Proof.Machine
end

section
/-! PROOFS. A receive step ends what it begins (43_dispatch.md R200, 60_exceptions.md R260, R270): a command's rule leaves
the receive path and the log alone, and the end of its frame logs one outcome: the statement O40. -/

namespace Sys2Proof.Machine

/-! ## What no rule touches -/

/-- A reading of the state that the CRC unit, the records, the address table and `WAKE` do not enter. -/
structure Apart {α : Type} (g : State → α) : Prop where
  runCrc : ∀ s span, g (s.runCrc span) = g s
  modifyDev : ∀ s d f, g (s.modifyDev d f) = g s
  moveDev : ∀ s d old new, g (s.moveDev d old new) = g s
  wakeUp : ∀ s, g s.wakeUp = g s

namespace Apart

variable {α : Type} {g : State → α} (hg : Apart g)

include hg

theorem runReplyCrc (s : State) (p : Bytes) : g (s.runReplyCrc p) = g s := by
  unfold State.runReplyCrc
  split
  · rfl
  · exact hg.runCrc s _

theorem runVerifyCrc (s : State) (h span : Bytes) : g (s.runVerifyCrc h span) = g s := by
  unfold State.runVerifyCrc
  split
  · exact hg.runCrc s _
  · rfl

theorem setReply (x : Ctx) (c : Cmd) (d : Nat) : g (x.setReply c d).st = g x.st := by
  unfold Ctx.setReply
  split
  · rfl
  split
  · rfl
  · exact hg.runReplyCrc x.st _

theorem applyNum (x : Ctx) (d : Nat) (fld : NumField) (bound : Option Nat) (p : Param) :
    g (x.applyNum d fld bound p).st = g x.st := by
  unfold Ctx.applyNum
  split
  · rfl
  split
  · dsimp only
    split
    · exact (hg.wakeUp _).trans (hg.modifyDev _ _ _)
    · exact hg.modifyDev _ _ _
  · rfl

theorem applyMask (x : Ctx) (d : Nat) (p : Param) : g (x.applyMask d p).st = g x.st := by
  unfold Ctx.applyMask
  split
  · rfl
  split
  · exact hg.modifyDev _ _ _
  · rfl

theorem applyText (x : Ctx) (d : Nat) (fld : TextField) (t : Option Bytes) : g (x.applyText d fld t).st = g x.st := by
  unfold Ctx.applyText
  split
  · rfl
  · exact hg.modifyDev _ _ _

theorem applyEntry (x : Ctx) (c : Cmd) (d i : Nat) (e : SchemaEntry) : g (x.applyEntry c d i e).st = g x.st := by
  cases e with
  | num fld form bound => exact hg.applyNum x d fld bound _
  | text fld => exact hg.applyText x d fld _
  | mask => exact hg.applyMask x d _

theorem applySchema (c : Cmd) (d i : Nat) (es : List SchemaEntry) (x : Ctx) :
    g (x.applySchema c d i es).st = g x.st := by
  induction es generalizing i x with
  | nil => rfl
  | cons e es ih => exact (ih (i + 1) _).trans (hg.applyEntry x c d i e)

/-! ### Each rule -/

theorem aSetRule (c : Cmd) (d : Nat) (x : Ctx) : g (aSetRule c d x).st = g x.st :=
  (hg.setReply _ c d).trans ((hg.applyNum _ d .interval none _).trans (hg.applyNum x d .fmt none _))

theorem aQueryRule (d : Nat) (x : Ctx) : g (aQueryRule d x).st = g x.st := by
  unfold Machine.aQueryRule
  split
  · rfl
  · exact hg.runReplyCrc x.st _

theorem nAddrRule (c : Cmd) (several : Bool) (d : Nat) (x : Ctx) : g (nAddrRule c several d x).st = g x.st := by
  unfold Machine.nAddrRule
  split
  · rfl
  split
  · rfl
  split
  · rfl
  split
  · rfl
  split
  · exact hg.setReply x c d
  split
  · rfl
  · exact (hg.setReply _ c d).trans (hg.moveDev x.st d _ _)

theorem queryRule (c : Cmd) (d : Nat) (x : Ctx) : g (queryRule c d x).st = g x.st := by
  unfold Machine.queryRule
  split
  · rfl
  · exact hg.runReplyCrc x.st _

theorem setRule (c : Cmd) (schema : List SchemaEntry) (d : Nat) (x : Ctx) : g (setRule c schema d x).st = g x.st :=
  (hg.setReply _ c d).trans (hg.applySchema c d 0 schema x)

theorem maskRule (c : Cmd) (d : Nat) (x : Ctx) : g (maskRule c d x).st = g x.st :=
  (hg.setReply _ c d).trans (hg.applyMask x d _)

theorem formRule (c : Cmd) (d : Nat) (x : Ctx) : g (formRule c d x).st = g x.st := by
  refine (hg.setReply _ c d).trans ?_
  split
  · rfl
  · exact hg.modifyDev x.st _ _

theorem calRule (c : Cmd) (d : Nat) (x : Ctx) : g (calRule c d x).st = g x.st := by
  unfold Machine.calRule
  split
  · rfl
  split
  · split
    · exact (hg.setReply _ c d).trans (hg.modifyDev x.st d _)
    · rfl
    · rfl
  · rfl

theorem modeRule (m : Mode) (d : Nat) (x : Ctx) : g (modeRule m d x).st = g x.st :=
  (hg.wakeUp _).trans (hg.modifyDev x.st d _)

theorem sendRule (d : Nat) (x : Ctx) : g (sendRule d x).st = g x.st := by
  unfold Machine.sendRule
  split
  · rfl
  · exact (hg.wakeUp _).trans (hg.runReplyCrc x.st _)

end Apart

/-- All targets, one after another. -/
theorem foldl_keeps {α : Type} {g : State → α} {rule : Nat → Ctx → Ctx} (hr : ∀ d x, g (rule d x).st = g x.st)
    (ts : List Nat) (x : Ctx) : g (ts.foldl (fun x t => rule t x) x).st = g x.st := by
  induction ts generalizing x with
  | nil => rfl
  | cons d ts ih => exact (ih _).trans (hr d x)

/-! ## The end of a frame (60_exceptions.md R260) -/

/-- The receive path and the log. -/
def State.rxLog (s : State) : Bytes × Bool × List LogEntry := (s.rxbuf, s.rxdisc, s.outlog)

theorem apart_rxLog : Apart State.rxLog := ⟨fun _ _ => rfl, fun _ _ _ => rfl, fun _ _ _ _ => rfl, fun _ => rfl⟩

/-- A result that ends a frame: a next state, its receive path as before, with no frame and one more log entry. -/
def EndsFrame (s : State) (r : Result) : Prop :=
  ∃ t, r = .next t ∧ t.frame = none ∧ ∃ e, t.rxLog = (s.rxbuf, s.rxdisc, s.outlog ++ [e])

/-- A stage that leaves the receive path and the log alone comes before the end. -/
theorem EndsFrame.after {s t : State} {r : Result} (hst : t.rxLog = s.rxLog) (h : EndsFrame t r) : EndsFrame s r := by
  obtain ⟨hbuf, hdisc, hlog⟩ : t.rxbuf = s.rxbuf ∧ t.rxdisc = s.rxdisc ∧ t.outlog = s.outlog := by
    simpa [State.rxLog] using hst
  simpa only [EndsFrame, hbuf, hdisc, hlog] using h

theorem endsFrame_raise (s : State) (o : OutcomeCode) (addr : Option Nat) : EndsFrame s (.next (s.raise o addr)) :=
  ⟨_, rfl, rfl, _, rfl⟩

theorem endsFrame_finish (x : Ctx) (c : Cmd) : EndsFrame x.st (.next (x.finish c)) :=
  ⟨_, rfl, rfl, _, rfl⟩

theorem endsFrame_dispatch {rule : Bool → Nat → Ctx → Ctx} (c : Cmd) (s : State)
    (hr : ∀ several d x, (rule several d x).st.rxLog = x.st.rxLog) : EndsFrame s (.next (dispatch c rule s)) := by
  unfold dispatch
  split
  · exact endsFrame_raise s _ _
  · rename_i d ds _
    exact .after (foldl_keeps (hr (!ds.isEmpty)) (d :: ds) { st := s, oor := false, replies := [] })
      (endsFrame_finish _ c)

theorem endsFrame_dispatchRefused (c : Cmd) (s : State) : EndsFrame s (.next (dispatchRefused c s)) := by
  unfold dispatchRefused
  split
  · exact endsFrame_raise s _ _
  · exact ⟨_, rfl, rfl, _, rfl⟩

theorem endsFrame_dispatchClass (c : Cmd) (s : State) : EndsFrame s (.next (dispatchClass c s)) := by
  unfold dispatchClass
  split
  · exact endsFrame_dispatchRefused c s
  · exact endsFrame_dispatch c s fun _ => apart_rxLog.setRule c _
  · exact endsFrame_dispatch c s fun _ => apart_rxLog.maskRule c
  · exact endsFrame_dispatch c s fun _ => apart_rxLog.queryRule c
  · exact endsFrame_dispatch c s fun _ => apart_rxLog.modeRule _

/-- Every command ends its frame (43_dispatch.md R192). -/
theorem endsFrame_execCmd (c : Cmd) (s : State) : EndsFrame s (execCmd c s) := by
  obtain ⟨kind, a⟩ := c
  cases kind with
  | autosend =>
    unfold execCmd
    dsimp only
    split
    · exact endsFrame_dispatch _ s fun _ => apart_rxLog.aQueryRule
    · exact endsFrame_dispatch _ s fun _ => apart_rxLog.aSetRule _
  | addrReassign => exact endsFrame_dispatch _ s (apart_rxLog.nAddrRule _)
  | get => exact endsFrame_dispatch _ s fun _ => apart_rxLog.queryRule _
  | set => exact endsFrame_dispatch _ s fun _ => apart_rxLog.setRule _ _
  | setnc => exact endsFrame_dispatch _ s fun _ => apart_rxLog.setRule _ _
  | form => exact endsFrame_dispatch _ s fun _ => apart_rxLog.formRule _
  | fmask => exact endsFrame_dispatch _ s fun _ => apart_rxLog.maskRule _
  | cal => exact endsFrame_dispatch _ s fun _ => apart_rxLog.calRule _
  | start => exact endsFrame_dispatch _ s fun _ => apart_rxLog.modeRule _
  | run => exact endsFrame_dispatch _ s fun _ => apart_rxLog.modeRule _
  | stop => exact endsFrame_dispatch _ s fun _ => apart_rxLog.modeRule _
  | poll => exact endsFrame_dispatch _ s fun _ => apart_rxLog.modeRule _
  | send => exact endsFrame_dispatch _ s fun _ => apart_rxLog.sendRule
  | r => exact endsFrame_dispatchClass _ s
  | reset => exact endsFrame_dispatchClass _ s
  | configured n => exact endsFrame_dispatchClass _ s

theorem endsFrame_runPayload (addr : Option Nat) (p : Bytes) (s : State) : EndsFrame s (runPayload addr p s) := by
  unfold runPayload
  split
  · exact endsFrame_raise s _ _
  · exact endsFrame_execCmd _ s

theorem endsFrame_checkLine (line : Bytes) (f : Frame) (ts : List Nat) (s : State) :
    EndsFrame s (checkLine line f ts s) := by
  unfold checkLine
  split
  · exact endsFrame_runPayload _ _ s
  split
  · split
    · exact endsFrame_runPayload _ _ s
    · exact endsFrame_raise s _ _
  · exact endsFrame_runPayload _ _ s

theorem endsFrame_checkBlock (f : Frame) (ts : List Nat) (s : State) : EndsFrame s (checkBlock f ts s) := by
  have hverify := apart_rxLog.runVerifyCrc s (f.crcfield.getD []) f.span
  unfold checkBlock
  split
  · dsimp only
    split
    · exact .after hverify (endsFrame_runPayload _ _ _)
    · exact .after hverify (endsFrame_raise _ _ _)
  · exact endsFrame_runPayload _ _ s

/-- Every frame step ends its frame, at whichever stage (43_dispatch.md R199). -/
theorem endsFrame_frameStep (raw : Bytes) (s : State) : EndsFrame s (frameStep raw s) := by
  unfold frameStep
  split
  · exact endsFrame_raise s _ _
  split
  · exact endsFrame_raise s _ _
  split
  · exact endsFrame_checkLine raw _ _ s
  · exact endsFrame_checkBlock _ _ s

/-- Settles O40: a terminator that completes a frame starts a frame step from the cleared buffer, which ends the frame
(`endsFrame_frameStep`); any other byte completes by `goesOn_execRxByte`. -/
theorem everyReceiveStepCompletes : Obligations.EveryReceiveStepCompletes := by
  intro b s
  by_cases hb : CompletesFrame s b
  · obtain ⟨t, ht, hframe, e, hend⟩ := endsFrame_frameStep (pendingFrame s b) s.taken
    obtain ⟨hbuf, hdisc, hlog⟩ : t.rxbuf = [] ∧ t.rxdisc = false ∧ t.outlog = s.outlog ++ [e] := by
      simpa [State.rxLog] using hend
    exact ⟨t, (exec_rxByte_of_completesFrame hb).trans ht, fun _ => ⟨hbuf, hdisc, hframe, e, hlog⟩⟩
  · obtain ⟨t, ht, -⟩ := goesOn_execRxByte b s
    exact ⟨t, ht, fun h => absurd h hb⟩

end Sys2Proof.Machine
end

section
/-! PROOFS. The fields of a record under a schema (43_dispatch.md R194, R195; 44_commands.md R224): an entry without another
of its field in the schema takes effect whatever its siblings do: the statement O28. -/

namespace Sys2Proof.Machine

/-! ## One entry among its siblings -/

/-- Entries that leave a reading of the record alone, one after another. -/
theorem read_foldl_entryDev {α : Type} {read : Dev → α} {cfg : Config} {c : Cmd} {es : List SchemaEntry}
    (hes : ∀ e ∈ es, ∀ i w, read (entryDev cfg c i e w) = read w) (i : Nat) (w : Dev) :
    read ((es.zipIdx i).foldl (fun w e => entryDev cfg c e.2 e.1 w) w) = read w := by
  induction es generalizing i w with
  | nil => rfl
  | cons e es ih =>
    obtain ⟨he, hes⟩ := List.forall_mem_cons.1 hes
    rw [List.zipIdx_cons, List.foldl_cons, ih hes, he]

/-- A reading that no sibling touches is, after the schema, what the entry makes of it. -/
theorem read_schemaDev {α : Type} (read : Dev → α) {cfg : Config} {c : Cmd} {pre post : List SchemaEntry}
    (hread : ∀ e ∈ pre ++ post, ∀ i w, read (entryDev cfg c i e w) = read w) (e : SchemaEntry) (v : Dev) :
    ∃ w, read w = read v ∧ read (schemaDev cfg c (pre ++ e :: post) v) = read (entryDev cfg c pre.length e w) := by
  obtain ⟨hpre, hpost⟩ := List.forall_mem_append.1 hread
  refine ⟨pre.zipIdx.foldl (fun w e => entryDev cfg c e.2 e.1 w) v, read_foldl_entryDev hpre 0 v, ?_⟩
  rw [schemaDev, List.zipIdx_append, List.foldl_append, List.zipIdx_cons, List.foldl_cons,
    read_foldl_entryDev hpost, Nat.zero_add]

/-! ## What the other entries leave alone -/

/-- A numeric entry changes a reading of the record only where the write of its field does; so for the other two. -/
theorem read_entryDev_num {α : Type} (read : Dev → α) {cfg : Config} {f : NumField}
    (hread : ∀ w n, read (w.setNum f n) = read w) (c : Cmd) (i : Nat) (form : NumForm) (bound : Option Nat) (w : Dev) :
    read (entryDev cfg c i (.num f form bound) w) = read w := by
  unfold entryDev
  dsimp only
  split
  · exact hread w _
  · rfl

theorem read_entryDev_text {α : Type} (read : Dev → α) {cfg : Config} {f : TextField}
    (hread : ∀ w t, read (w.setText f t) = read w) (c : Cmd) (i : Nat) (w : Dev) :
    read (entryDev cfg c i (.text f) w) = read w := by
  unfold entryDev
  dsimp only
  split
  · exact hread w _
  · rfl

theorem read_entryDev_mask {α : Type} (read : Dev → α) {cfg : Config}
    (hread : ∀ w m, read { w with fieldMask := m } = read w) (c : Cmd) (i : Nat) (w : Dev) :
    read (entryDev cfg c i .mask w) = read w := by
  unfold entryDev maskedDev
  dsimp only
  split
  · rfl
  split
  · exact hread w _
  · rfl

/-! ## Numeric fields -/

/-- The value of a numeric field, `chk_en` as 0 or 1. -/
def numOf (f : NumField) (w : Dev) : Nat :=
  match f with
  | .interval => w.interval
  | .fmt => w.fmt
  | .filter => w.filter
  | .rhThreshold => w.rhThreshold
  | .units => w.units
  | .chkEn => if w.chkEn then 1 else 0

theorem numOf_setNum_other {f g : NumField} (h : g ≠ f) (w : Dev) (n : Nat) : numOf f (w.setNum g n) = numOf f w := by
  cases f <;> cases g <;> trivial

/-- A legal value is read back; of `chk_en` it is 0 or 1. -/
theorem numOf_setNum_same {cfg : Config} {f : NumField} {n : Nat} (h : legalNum cfg f n = true) (w : Dev) :
    numOf f (w.setNum f n) = n := by
  cases f with
  | chkEn =>
    have hn : n ≤ 1 := by simpa [legalNum] using h
    interval_cases n <;> rfl
  | _ => rfl

/-- An entry of another field leaves a numeric field alone. -/
theorem numOf_entryDev_other {cfg : Config} {c : Cmd} {f : NumField} {e : SchemaEntry}
    (he : ∀ form bound, e ≠ .num f form bound) (i : Nat) (w : Dev) : numOf f (entryDev cfg c i e w) = numOf f w := by
  cases e with
  | num g form bound =>
    have hg : g ≠ f := fun h => he form bound (by rw [h])
    exact read_entryDev_num (numOf f) (numOf_setNum_other hg) c i form bound w
  | text g => exact read_entryDev_text (numOf f) (fun _ _ => by cases f <;> cases g <;> rfl) c i w
  | mask => exact read_entryDev_mask (numOf f) (fun _ _ => by cases f <;> rfl) c i w

/-- The legal values of R224 in numbers. -/
def InLegalRange (cfg : Config) (f : NumField) (n : Nat) : Prop :=
  match f with
  | .interval => n ≤ 999900
  | .fmt => n ≤ 12
  | .filter => n ≤ cfg.filterMax
  | .rhThreshold => n ≤ 100
  | .units => n ∈ cfg.unitCodes
  | .chkEn => n = 0 ∨ n = 1

theorem legalNum_iff (cfg : Config) (f : NumField) (n : Nat) : legalNum cfg f n = true ↔ InLegalRange cfg f n := by
  cases f with
  | units => exact List.contains_iff_mem
  | chkEn => exact decide_eq_true_iff.trans Nat.le_one_iff_eq_zero_or_eq_one
  | _ => exact decide_eq_true_iff

theorem withinBound_iff {bound : Option Nat} {n : Nat} : withinBound bound n = true ↔ ∀ m, bound = some m → n ≤ m := by
  cases bound <;> simp [withinBound]

section
variable {cfg : Config} {c : Cmd} {i : Nat} {f : NumField} {form : NumForm} {bound : Option Nat}

/-- A value that is legal and within its bound is written and wakes the sender for the interval alone (R198). -/
theorem entry_num_of_legal {n : Nat} (hp : numParam cfg c i f form = .value n)
    (hl : (legalNum cfg f n && withinBound bound n) = true) :
    (∀ w, entryDev cfg c i (.num f form bound) w = w.setNum f n) ∧
      entryRejected cfg c i (.num f form bound) = false ∧
      (entryWakes cfg c i (.num f form bound) = true ↔ f = .interval) := by
  have hacc : accepted cfg f bound (numParam cfg c i f form) = some n := by simp [hp, accepted, hl]
  refine ⟨fun w => by simp [entryDev, hacc], by simp [entryRejected, hp, rejected, hl], ?_⟩
  cases f with
  | interval => simp [entryWakes, hacc]
  | _ => simp [entryWakes]

/-- A parameter that the field does not accept writes nothing and wakes nobody. -/
theorem entry_num_of_not_accepted (hacc : accepted cfg f bound (numParam cfg c i f form) = none) :
    (∀ w, entryDev cfg c i (.num f form bound) w = w) ∧ entryWakes cfg c i (.num f form bound) = false := by
  refine ⟨fun w => by simp [entryDev, hacc], ?_⟩
  cases f with
  | interval => simp [entryWakes, hacc]
  | _ => rfl

theorem entry_num_of_illegal {n : Nat} (hp : numParam cfg c i f form = .value n)
    (hl : ¬ (legalNum cfg f n && withinBound bound n) = true) :
    accepted cfg f bound (numParam cfg c i f form) = none ∧ entryRejected cfg c i (.num f form bound) = true := by
  simp [hp, accepted, rejected, entryRejected, hl]

theorem entry_num_of_keep (hp : numParam cfg c i f form = .keep) :
    accepted cfg f bound (numParam cfg c i f form) = none ∧ entryRejected cfg c i (.num f form bound) = false := by
  simp [hp, accepted, rejected, entryRejected]

end

/-! ## Text fields -/

/-- The value of a text field. -/
def textOf (f : TextField) (w : Dev) : Bytes :=
  match f with
  | .comm => w.comm
  | .pin => w.pin
  | .message => w.message

theorem textOf_setText_same (f : TextField) (w : Dev) (t : Bytes) : textOf f (w.setText f t) = t := by
  cases f <;> rfl

theorem textOf_setText_other {f g : TextField} (h : g ≠ f) (w : Dev) (t : Bytes) :
    textOf f (w.setText g t) = textOf f w := by
  cases f <;> cases g <;> trivial

theorem textOf_entryDev_other {cfg : Config} {c : Cmd} {f : TextField} {e : SchemaEntry} (he : e ≠ .text f) (i : Nat)
    (w : Dev) : textOf f (entryDev cfg c i e w) = textOf f w := by
  cases e with
  | num g form bound => exact read_entryDev_num (textOf f) (fun _ _ => by cases f <;> cases g <;> rfl) c i form bound w
  | text g =>
    have hg : g ≠ f := fun h => he (by rw [h])
    exact read_entryDev_text (textOf f) (textOf_setText_other hg) c i w
  | mask => exact read_entryDev_mask (textOf f) (fun _ _ => by cases f <;> rfl) c i w

/-- A text that is there is written; a missing one is not (R224). -/
theorem textOf_entryDev_same (cfg : Config) (c : Cmd) (f : TextField) (i : Nat) (w : Dev) :
    textOf f (entryDev cfg c i (.text f) w) = c.args.fields[i]?.getD (textOf f w) := by
  cases ht : c.args.fields[i]? with
  | none => simp [entryDev, ht]
  | some t => simp [entryDev, ht, textOf_setText_same]

/-! ## The mask -/

theorem fieldMask_entryDev_other {cfg : Config} {c : Cmd} {e : SchemaEntry} (he : e ≠ .mask) (i : Nat) (w : Dev) :
    (entryDev cfg c i e w).fieldMask = w.fieldMask := by
  cases e with
  | num g form bound => exact read_entryDev_num Dev.fieldMask (fun _ _ => by cases g <;> rfl) c i form bound w
  | text g => exact read_entryDev_text Dev.fieldMask (fun _ _ => by cases g <;> rfl) c i w
  | mask => exact absurd rfl he

/-- No bit of `m` lies outside `valid`. -/
theorem and_eq_left_iff_testBit {m valid : Nat} :
    m &&& valid = m ↔ ∀ i, m.testBit i = true → valid.testBit i = true := by
  constructor
  · intro h i hi
    rw [← h, Nat.testBit_and, Bool.and_eq_true] at hi
    exact hi.2
  · intro h
    refine Nat.eq_of_testBit_eq fun i => ?_
    rw [Nat.testBit_and]
    cases hi : m.testBit i with
    | false => rfl
    | true => simp [h i hi]

/-- The check of a mask, bit by bit (44_commands.md R227). -/
theorem legalMask_iff (cfg : Config) (m : Nat) :
    legalMask cfg m = true ↔
      m < 2 ^ cfg.fieldMaskWidth ∧ ∀ i, m.testBit i = true → cfg.fieldMaskValid.testBit i = true := by
  rw [legalMask, Bool.and_eq_true, decide_eq_true_eq, beq_iff_eq, and_eq_left_iff_testBit]

theorem maskedDev_value (cfg : Config) (m : Nat) (v : Dev) :
    maskedDev cfg (.value m) v = if legalMask cfg m then { v with fieldMask := m } else v := rfl

theorem maskRejected_value (cfg : Config) (m : Nat) : maskRejected cfg (.value m) = !legalMask cfg m := rfl

/-! ## O28 -/

/-- Settles O28: no sibling touches the entry's field (`read_schemaDev`), so that its value after the schema is what the
entry makes of it. -/
theorem schemaFieldIsIndependent : Obligations.SchemaFieldIsIndependent := by
  intro cfg c pre post v
  refine ⟨fun f form bound halone => ?_, fun f halone => ?_, fun halone => ?_⟩
  · intro field legal p after
    have hfield (w : Dev) : field w = numOf f w := by cases f <;> rfl
    have hlegal (n : Nat) : legal n ↔ (legalNum cfg f n && withinBound bound n) = true := by
      rw [Bool.and_eq_true, legalNum_iff, withinBound_iff]
      cases f <;> rfl
    obtain ⟨w, hw, hafter⟩ := read_schemaDev (numOf f) (cfg := cfg) (c := c)
      (fun e he => numOf_entryDev_other (halone e he)) (.num f form bound) v
    simp only [hfield]
    refine ⟨fun n hp hl => ?_, fun n hp hl => ?_, fun hp => ?_⟩
    · rw [hlegal] at hl
      obtain ⟨hdev, hrej, hwakes⟩ := entry_num_of_legal hp hl
      exact ⟨by rw [hafter, hdev, numOf_setNum_same (Bool.and_eq_true_iff.1 hl).1], hrej, hwakes⟩
    · rw [hlegal] at hl
      obtain ⟨hacc, hrej⟩ := entry_num_of_illegal hp hl
      obtain ⟨hdev, hwakes⟩ := entry_num_of_not_accepted hacc
      exact ⟨by rw [hafter, hdev, hw], hrej, hwakes⟩
    · obtain ⟨hacc, hrej⟩ := entry_num_of_keep (bound := bound) hp
      obtain ⟨hdev, hwakes⟩ := entry_num_of_not_accepted hacc
      exact ⟨by rw [hafter, hdev, hw], hrej, hwakes⟩
  · intro field
    have hfield (w : Dev) : field w = textOf f w := by cases f <;> rfl
    obtain ⟨w, hw, hafter⟩ := read_schemaDev (textOf f) (cfg := cfg) (c := c)
      (fun e he => textOf_entryDev_other (ne_of_mem_of_not_mem he halone)) (.text f) v
    rw [hfield, hfield, hafter, textOf_entryDev_same, hw]
  · intro p legal after
    obtain ⟨w, hw, hafter⟩ := read_schemaDev Dev.fieldMask (cfg := cfg) (c := c)
      (fun e he => fieldMask_entryDev_other (ne_of_mem_of_not_mem he halone)) .mask v
    have hmask : after.fieldMask = (maskedDev cfg p w).fieldMask := hafter
    have hrej : entryRejected cfg c pre.length .mask = maskRejected cfg p := rfl
    rw [hmask, hrej]
    refine ⟨fun m hp hl => ?_, fun m hp hl => ?_, fun hp => ?_⟩
    · rw [hp, maskedDev_value, maskRejected_value, (legalMask_iff cfg m).2 hl]
      exact ⟨rfl, rfl⟩
    · rw [hp, maskedDev_value, maskRejected_value, Bool.eq_false_iff.2 fun h => hl ((legalMask_iff cfg m).1 h)]
      exact ⟨hw, rfl⟩
    · rw [hp]
      exact ⟨hw, rfl⟩

end Sys2Proof.Machine
end

section
/-! PROOFS. `N_ADDR` (44_commands.md R222): its rule case by case, and the end of a dispatch to one target: the
statements O23, O24 and O25. -/

namespace Sys2Proof.Machine

/-! ## One target (43_dispatch.md R192) -/

/-- A dispatch before its first target. -/
def Ctx.start (s : State) : Ctx := { st := s, oor := false, replies := [] }

@[simp] theorem Ctx.start_st (s : State) : (Ctx.start s).st = s := rfl

theorem dispatch_of_targets {c : Cmd} {s : State} {d : Nat} {ds : List Nat} (rule : Bool → Nat → Ctx → Ctx)
    (h : targets s c.args.addr = d :: ds) :
    dispatch c rule s = ((d :: ds).foldl (fun x t => rule (!ds.isEmpty) t x) (Ctx.start s)).finish c := by
  simp only [dispatch, h]
  rfl

theorem dispatch_of_one_target {c : Cmd} {s : State} {d : Nat} (rule : Bool → Nat → Ctx → Ctx)
    (h : targets s c.args.addr = [d]) : dispatch c rule s = (rule false d (Ctx.start s)).finish c :=
  dispatch_of_targets rule h

/-- The end of a dispatch that has rejected a target and changed nothing. -/
theorem finish_reject (s : State) (c : Cmd) :
    (Ctx.start s).reject.finish c =
      { s with outlog := s.outlog ++ [⟨.outOfRange, c.args.addr, some c.kind⟩], frame := none } := by
  simp [Ctx.finish, Ctx.reject, Ctx.start, State.emitAll, State.log, State.dropFrame]

/-- The end of a dispatch that has done nothing. -/
theorem finish_start (s : State) (c : Cmd) :
    (Ctx.start s).finish c =
      { s with outlog := s.outlog ++ [⟨.ok, c.args.addr, some c.kind⟩], frame := none } := by
  simp [Ctx.finish, Ctx.start, State.emitAll, State.log, State.dropFrame]

/-- The end of a dispatch to one target is `dispatchAll` on it. -/
theorem finish_after {s : State} {d : Nat} {v : Dev} (c : Cmd) (upd : Dev → Dev) (rej : Dev → Bool) (wakes : Bool)
    (pay : Dev → Option Bytes) (h : s.devs[d]? = some v) :
    ((Ctx.start s).after d v upd rej wakes pay).finish c = dispatchAll s c [d] upd rej wakes pay := by
  have hdevs : updateAll s.devs [d] upd = s.devs.set d (upd v) := by
    rw [← updateAll_set upd h List.not_mem_nil, updateAll_nil]
  have hreplies : repliesOf (s.devs.set d (upd v)) [d] pay =
      (pay (upd v)).toList.map fun p => ((upd v).address, p) := by
    rw [repliesOf_cons [] pay (getElem?_set_self' (upd v) h)]
    exact List.append_nil _
  simp [dispatchAll, hdevs, hreplies, h, Ctx.finish, Ctx.after, Ctx.start, State.emitAll, State.log, State.dropFrame,
    Function.comp_def]

/-! ## A reply after a change of the record (43_dispatch.md R194) -/

theorem modifyDev_setReply_eq_after {x : Ctx} {d : Nat} {v : Dev} (c : Cmd) (f : Dev → Dev)
    (h : x.st.devs[d]? = some v) :
    (x.onState (·.modifyDev d f)).setReply c d =
      x.after d v f (fun _ => false) false (setReplyOf x.st.cfg c) := by
  have hcrc := x.st.runReplyCrcs_with (setReplyOf x.st.cfg c (f v)).toList (x.st.devs.set d (f v)) x.st.wake
  simp only [Ctx.onState, State.modifyDev, modify_eq_set f h]
  rw [setReply_eq c (getElem?_set_self' (f v) h)]
  simp only [Ctx.after, Bool.or_false]
  rw [← hcrc]

theorem setReply_eq_after {x : Ctx} {d : Nat} {v : Dev} (c : Cmd) (h : x.st.devs[d]? = some v) :
    x.setReply c d = x.after d v id (fun _ => false) false (setReplyOf x.st.cfg c) := by
  have hsame : x.onState (·.modifyDev d id) = x := by
    simp only [Ctx.onState, State.modifyDev, List.modify_id]
  rw [← modifyDev_setReply_eq_after c id h, hsame]

/-! ## The rule -/

section
variable {x : Ctx} {d new : Nat} {v : Dev} (c : Cmd)

theorem nAddrRule_keep (hp : param x.st.cfg x.st.cfg.numericDefault.address c.args.fields 0 parseUint = .keep) :
    nAddrRule c false d x = x := by
  simp only [nAddrRule, hp, Bool.false_eq_true, if_false]

/-- A new address, on a target with a record: past a bound, the own one, occupied, or free. -/
theorem nAddrRule_value (hp : param x.st.cfg x.st.cfg.numericDefault.address c.args.fields 0 parseUint = .value new)
    (hv : x.st.devs[d]? = some v) :
    nAddrRule c false d x =
      if 98 < new ∨ x.st.cfg.addrMax < new then x.reject
      else if new = v.address then x.setReply c d
      else if tabGet x.st.atab new ≠ none then x.reject
      else (x.onState (·.moveDev d v.address new)).setReply c d := by
  simp [nAddrRule, hp, hv, naddrMax, Option.isSome_iff_ne_none]

theorem nAddrRule_rejects (hp : param x.st.cfg x.st.cfg.numericDefault.address c.args.fields 0 parseUint = .value new)
    (hv : x.st.devs[d]? = some v)
    (hbad : 98 < new ∨ x.st.cfg.addrMax < new ∨ (new ≠ v.address ∧ tabGet x.st.atab new ≠ none)) :
    nAddrRule c false d x = x.reject := by
  rw [nAddrRule_value c hp hv]
  by_cases hbound : 98 < new ∨ x.st.cfg.addrMax < new
  · rw [if_pos hbound]
  · obtain ⟨hown, hocc⟩ : new ≠ v.address ∧ tabGet x.st.atab new ≠ none := by tauto
    rw [if_neg hbound, if_neg hown, if_pos hocc]

theorem nAddrRule_own
    (hp : param x.st.cfg x.st.cfg.numericDefault.address c.args.fields 0 parseUint = .value v.address)
    (hv : x.st.devs[d]? = some v) (h98 : v.address ≤ 98) (hmax : v.address ≤ x.st.cfg.addrMax) :
    nAddrRule c false d x = x.setReply c d := by
  rw [nAddrRule_value c hp hv, if_neg (by omega), if_pos rfl]

theorem nAddrRule_moves (hp : param x.st.cfg x.st.cfg.numericDefault.address c.args.fields 0 parseUint = .value new)
    (hv : x.st.devs[d]? = some v) (h98 : new ≤ 98) (hmax : new ≤ x.st.cfg.addrMax) (hown : new ≠ v.address)
    (hfree : tabGet x.st.atab new = none) :
    nAddrRule c false d x = (x.onState (·.moveDev d v.address new)).setReply c d := by
  rw [nAddrRule_value c hp hv, if_neg (by omega), if_neg hown, if_neg (by simp [hfree])]

end

/-- With several targets each is rejected, whatever its record. -/
theorem foldl_nAddrRule_several (c : Cmd) (ts : List Nat) (x : Ctx) :
    ts.foldl (fun y t => nAddrRule c true t y) x.reject = x.reject := by
  induction ts with
  | nil => rfl
  | cons t ts ih => exact ih

/-! ## The table of a moved device -/

/-- Framing replies neither reads nor writes the address table. -/
theorem State.runReplyCrcs_with_atab (s : State) (tab : List (Nat × Nat)) (ps : List Bytes) :
    { s with atab := tab }.runReplyCrcs ps = { s.runReplyCrcs ps with atab := tab } := by
  induction ps generalizing s with
  | nil => rfl
  | cons p ps ih =>
    have hcrc : { s with atab := tab }.runReplyCrc p = { s.runReplyCrc p with atab := tab } := by
      unfold State.runReplyCrc
      split <;> rfl
    rw [State.runReplyCrcs_cons, hcrc, ih, State.runReplyCrcs_cons]

/-- A dispatch on given targets neither reads nor writes the address table. -/
theorem dispatchAll_with_atab (s : State) (tab : List (Nat × Nat)) (c : Cmd) (ts : List Nat) (upd : Dev → Dev)
    (rej : Dev → Bool) (wakes : Bool) (pay : Dev → Option Bytes) :
    dispatchAll { s with atab := tab } c ts upd rej wakes pay =
      { dispatchAll s c ts upd rej wakes pay with atab := tab } := by
  simp only [dispatchAll, State.runReplyCrcs_with_atab]

/-! ## O23, O24, O25 -/

/-- Settles O23: the move is a change of the record from the state with the new table, which the reply does not read. -/
theorem nAddrMovesTheDevice : Obligations.NAddrMovesTheDevice := by
  intro a s d new v ht hv hp h98 hmax hown hfree
  set c : Cmd := ⟨.addrReassign, a⟩
  set tab := tabSet (tabDel s.atab v.address) new d
  have hmoved : (nAddrRule c false d (Ctx.start s)).finish c =
      dispatchAll { s with atab := tab } c [d] (fun v => { v with address := new }) (fun _ => false) false
        (setReplyOf s.cfg c) := by
    rw [nAddrRule_moves c (x := Ctx.start s) hp hv h98 hmax hown hfree,
      ← finish_after (s := { s with atab := tab }) c _ _ _ _ hv]
    exact congrArg (Ctx.finish · c)
      (modifyDev_setReply_eq_after (x := Ctx.start { s with atab := tab }) c (fun v => { v with address := new }) hv)
  refine ⟨tab, congrArg Host.Outcome.next ?_, ?_, tabGet_tabSet_same _ _ _, fun x hx hxn => ?_, fun hwf =>
    tabWf_tabSet _ _ (tabWf_tabDel _ hwf)⟩
  · exact (dispatch_of_one_target (c := c) _ ht).trans (hmoved.trans (dispatchAll_with_atab s tab c _ _ _ _ _))
  · rw [tabGet_tabSet_other _ _ hown.symm, tabGet_tabDel_same]
  · rw [tabGet_tabSet_other _ _ hxn, tabGet_tabDel_other _ hx]

/-- Settles O24: several targets are each rejected; one alone is rejected by `nAddrRule_rejects`. -/
theorem nAddrRejects : Obligations.NAddrRejects := by
  intro a s d ds ht hbad
  set c : Cmd := ⟨.addrReassign, a⟩
  refine congrArg Host.Outcome.next (Eq.trans ?_ (finish_reject s c))
  cases ds with
  | nil =>
    obtain ⟨v, new, hv, hp, hbad⟩ := hbad.resolve_left (· rfl)
    rw [dispatch_of_one_target (c := c) _ ht, nAddrRule_rejects c (x := Ctx.start s) hp hv hbad]
  | cons e es =>
    exact (dispatch_of_targets (c := c) _ ht).trans
      (congrArg (Ctx.finish · c) (foldl_nAddrRule_several c (e :: es) (Ctx.start s)))

/-- Settles O25: the own address is an accepted command that changes nothing; a kept field is no command at all. -/
theorem nAddrWithoutMove : Obligations.NAddrWithoutMove := by
  intro a s d v ht hv
  set c : Cmd := ⟨.addrReassign, a⟩
  have hdispatch := dispatch_of_one_target (c := c) (nAddrRule c) ht
  refine ⟨fun hp h98 hmax => congrArg Host.Outcome.next (hdispatch.trans ?_),
    fun hp => congrArg Host.Outcome.next (hdispatch.trans ?_)⟩
  · rw [nAddrRule_own c (x := Ctx.start s) hp hv h98 hmax, setReply_eq_after (x := Ctx.start s) c hv,
      finish_after c _ _ _ _ hv]
    rfl
  · rw [nAddrRule_keep c (x := Ctx.start s) hp, finish_start]

end Sys2Proof.Machine
end

section
/-! PROOFS. The commands that treat their targets alike (44_commands.md R220, R221, R223 to R228, R232), and those
without semantics (R233, R234): the statements O21, O22, O26, O27, O29, O30, O31, O33 and O34. -/

namespace Sys2Proof.Machine

/-! ## Queries (R221, R223, R232) -/

/-- A rule that replies to each target and changes no record. -/
theorem dispatch_eq_queryResult {c : Cmd} {s : State} {rule : Nat → Ctx → Ctx} {wakes : Bool} {pay : Dev → Bytes}
    (hr : ActsAs s.cfg rule id (fun _ => false) wakes fun v => some (pay v)) (hg : GoodTargets s c.args.addr) :
    dispatch c (fun _ => rule) s = queryResult s c wakes pay :=
  dispatch_eq_dispatchAll (fun _ => hr) hg

/-- Settles O26: GET is the query rule. -/
theorem getRepliesQueryPayload : Obligations.GetRepliesQueryPayload := fun a s hg =>
  congrArg Host.Outcome.next (dispatch_eq_queryResult (c := ⟨.get, a⟩) (queryRule_actsAs s.cfg ⟨.get, a⟩) hg)

/-- Settles O33: SEND is a query that wakes the sender. -/
theorem sendRepliesOneOutputAndWakes : Obligations.SendRepliesOneOutputAndWakes := fun a s hg =>
  congrArg Host.Outcome.next (dispatch_eq_queryResult (c := ⟨.send, a⟩) (sendRule_actsAs s.cfg) hg)

/-- The two fraction digits are written one by one. -/
theorem renderInterval_eq (n : Nat) :
    renderInterval n =
      if n % 100 = 0 then dec (n / 100)
      else if n % 100 % 10 = 0 then dec (n / 100) ++ [0x2E#8] ++ dec (n % 100 / 10)
      else dec (n / 100) ++ [0x2E#8] ++
        [BitVec.ofNat 8 (0x30 + n % 100 / 10), BitVec.ofNat 8 (0x30 + n % 100 % 10)] := by
  simp only [renderInterval, digitByte, Ascii.dot, List.append_assoc, List.singleton_append]

/-- Settles O22: `A,?` is a query, and its payload renders the interval by `renderInterval_eq`. -/
theorem aQueryRepliesFormatAndInterval : Obligations.AQueryRepliesFormatAndInterval := by
  intro a s hg render
  have hpay : (fun v : Dev => dec v.fmt ++ [Ascii.comma] ++ renderInterval v.interval) =
      fun v => dec v.fmt ++ [0x2C#8] ++ render v.interval :=
    funext fun v => congrArg (dec v.fmt ++ [0x2C#8] ++ ·) (renderInterval_eq v.interval)
  rw [← hpay]
  exact congrArg Host.Outcome.next (dispatch_eq_queryResult (c := ⟨.autosend, a⟩) (aQueryRule_actsAs s.cfg) hg)

/-! ## A_SET (R220) -/

/-- A field held to a bound: the parameter where it is within, else the old value. -/
def heldTo (bound : Nat) (p : Param) (old : Nat) : Nat :=
  match p with
  | .value n => if n ≤ bound then n else old
  | .keep => old

/-- A parameter past a bound. -/
def exceeds (bound : Nat) (p : Param) : Bool :=
  match p with
  | .value n => bound < n
  | .keep => false

/-- A parameter within a bound. -/
def within (bound : Nat) (p : Param) : Bool :=
  match p with
  | .value n => n ≤ bound
  | .keep => false

theorem setNum_numOf (f : NumField) (v : Dev) : v.setNum f (numOf f v) = v := by
  cases f with
  | chkEn =>
    have hbit : ((if v.chkEn then 1 else 0) == 1) = v.chkEn := by cases v.chkEn <;> rfl
    exact congrArg (fun b => { v with chkEn := b }) hbit
  | _ => rfl

section
variable {cfg : Config} {f : NumField} {bound : Nat} (hf : ∀ n, legalNum cfg f n = decide (n ≤ bound))
include hf

theorem setNum_accepted (p : Param) (v : Dev) :
    ((accepted cfg f none p).map (v.setNum f)).getD v = v.setNum f (heldTo bound p (numOf f v)) := by
  cases p with
  | keep => exact (setNum_numOf f v).symm
  | value n => by_cases h : n ≤ bound <;> simp [accepted, hf, withinBound, heldTo, h, setNum_numOf]

theorem rejected_eq_exceeds (p : Param) : rejected cfg f none p = exceeds bound p := by
  cases p with
  | keep => rfl
  | value n => simp [rejected, hf, withinBound, exceeds, ← decide_not]

theorem accepted_isSome (p : Param) : (accepted cfg f none p).isSome = within bound p := by
  cases p with
  | keep => rfl
  | value n => by_cases h : n ≤ bound <;> simp [accepted, hf, withinBound, within, h]

end

/-- The rule of `A_SET` in the bounds of its two fields. -/
theorem aSetRule_actsAs_bounds (cfg : Config) (c : Cmd) :
    let pf := param cfg cfg.numericDefault.fmt c.args.fields 0 parseUint
    let pi := param cfg cfg.numericDefault.interval c.args.fields 1 parseFix2
    ActsAs cfg (aSetRule c)
      (fun v => { v with fmt := heldTo fmtMax pf v.fmt, interval := heldTo intervalMax pi v.interval })
      (fun _ => exceeds fmtMax pf || exceeds intervalMax pi) (within intervalMax pi) (setReplyOf cfg c) := by
  have hfmt : ∀ n, legalNum cfg .fmt n = decide (n ≤ fmtMax) := fun _ => rfl
  have hint : ∀ n, legalNum cfg .interval n = decide (n ≤ intervalMax) := fun _ => rfl
  have h := aSetRule_actsAs cfg c
  simp only [setNum_accepted hfmt, setNum_accepted hint, rejected_eq_exceeds hfmt, rejected_eq_exceeds hint,
    accepted_isSome hint] at h
  exact h

/-- Settles O21: the rule in its bounds, which are 12 and 999900. -/
theorem aSetWritesFormatAndInterval : Obligations.ASetWritesFormatAndInterval := fun a s hg =>
  congrArg Host.Outcome.next
    (dispatch_eq_dispatchAll (c := ⟨.autosend, a⟩) (fun _ => aSetRule_actsAs_bounds s.cfg ⟨.autosend, a⟩) hg)

/-! ## SET and SETNC (R224, R225) -/

theorem dispatch_setRule {c : Cmd} {s : State} (schema : List SchemaEntry) (hg : GoodTargets s c.args.addr) :
    dispatch c (fun _ => setRule c schema) s = setResult s c schema :=
  dispatch_eq_dispatchAll (fun _ => setRule_actsAs s.cfg c schema) hg

/-- Settles O27: both are the set rule under `SET_SCHEMA`, each with its own kind. -/
theorem setAndSetncApplyTheSchema : Obligations.SetAndSetncApplyTheSchema := fun a s hg =>
  ⟨congrArg Host.Outcome.next (dispatch_setRule (c := ⟨.set, a⟩) s.cfg.setSchema hg),
    congrArg Host.Outcome.next (dispatch_setRule (c := ⟨.setnc, a⟩) s.cfg.setSchema hg)⟩

/-! ## FORM (R226) -/

theorem formDev_of_some {cfg : Config} {c : Cmd} {p : CompiledFormat} (h : cfg.compileFormat c.args.rawtail = some p) :
    formDev cfg c = fun v => { v with formatProgram := p } := by
  funext v
  simp only [formDev, h]

theorem formDev_of_none {cfg : Config} {c : Cmd} (h : cfg.compileFormat c.args.rawtail = none) :
    formDev cfg c = id := by
  funext v
  simp only [formDev, h, id]

/-- Settles O29: the rule of FORM by whether the text compiles; and a parameter made of a function's values at the given
arguments has them (`FnParam.ofValues_apply`). -/
theorem formReplacesTheProgram : Obligations.FormReplacesTheProgram := by
  refine ⟨fun a s hg => ?_, fun cfg compile measure query reply texts devs cmds => ?_⟩
  · have hform := dispatch_eq_dispatchAll (c := ⟨.form, a⟩) (fun _ => formRule_actsAs s.cfg ⟨.form, a⟩) hg
    refine congrArg Host.Outcome.next (hform.trans ?_)
    cases hp : s.cfg.compileFormat a.rawtail with
    | none => rw [formDev_of_none (c := ⟨.form, a⟩) hp, Option.isNone_none]
    | some p => rw [formDev_of_some (c := ⟨.form, a⟩) hp, Option.isNone_some]
  · let args : List (Family × Cmd × Dev) := cmds.map fun x => (cfg.family, x)
    have hargs (x : Cmd × Dev) (hx : x ∈ cmds) : (cfg.family, x) ∈ args := List.mem_map_of_mem hx
    refine ⟨.ofValues compile texts (.free 0), .ofValues measure devs (.free 0),
      .ofValues (fun k => query k.1 k.2.1 k.2.2) args (.free 0),
      .ofValues (fun k => reply k.1 k.2.1 k.2.2) args (.free 0),
      fun t ht => FnParam.ofValues_apply compile texts _ _ ht,
      fun v hv => FnParam.ofValues_apply measure devs _ _ hv,
      fun x hx => ⟨FnParam.ofValues_apply _ args _ _ (hargs x hx),
        FnParam.ofValues_apply _ args _ _ (hargs x hx)⟩⟩

/-! ## FMASK (R227) -/

theorem dispatch_maskRule {c : Cmd} {s : State} (hg : GoodTargets s c.args.addr) :
    dispatch c (fun _ => maskRule c) s = maskResult s c :=
  dispatch_eq_dispatchAll (fun _ => maskRule_actsAs s.cfg c) hg

theorem maskResult_of_legal {s : State} {c : Cmd} {m : Nat} (hp : maskParam s.cfg c 0 = .value m)
    (hl : legalMask s.cfg m = true) :
    maskResult s c =
      dispatchAll s c (targets s c.args.addr) (fun v => { v with fieldMask := m }) (fun _ => false) false
        (setReplyOf s.cfg c) := by
  have hdev : maskedDev s.cfg (.value m) = fun v => { v with fieldMask := m } := funext fun _ => if_pos hl
  rw [maskResult, hp, hdev, maskRejected_value, hl, Bool.not_true]

theorem maskResult_of_illegal {s : State} {c : Cmd} {m : Nat} (hp : maskParam s.cfg c 0 = .value m)
    (hl : legalMask s.cfg m = false) :
    maskResult s c =
      dispatchAll s c (targets s c.args.addr) id (fun _ => true) false (setReplyOf s.cfg c) := by
  have hdev : maskedDev s.cfg (.value m) = id := funext fun _ => if_neg (by simp [hl])
  rw [maskResult, hp, hdev, maskRejected_value, hl, Bool.not_false]

theorem maskResult_of_keep {s : State} {c : Cmd} (hp : maskParam s.cfg c 0 = .keep) :
    maskResult s c =
      dispatchAll s c (targets s c.args.addr) id (fun _ => false) false (setReplyOf s.cfg c) := by
  rw [maskResult, hp]
  rfl

/-- Settles O30: the check of the mask, read bit by bit (`legalMask_iff`), decides between the results. -/
theorem fmaskIsAllOrNothing : Obligations.FmaskIsAllOrNothing := by
  intro a s hg p
  have hmask := dispatch_maskRule (c := ⟨.fmask, a⟩) hg
  refine ⟨fun m hp hwidth hbits => congrArg Host.Outcome.next (hmask.trans ?_),
    fun m hp hbad => congrArg Host.Outcome.next (hmask.trans ?_),
    fun hp => congrArg Host.Outcome.next (hmask.trans (maskResult_of_keep hp))⟩
  · exact maskResult_of_legal hp ((legalMask_iff s.cfg m).2 ⟨hwidth, hbits⟩)
  · refine maskResult_of_illegal hp (Bool.eq_false_iff.2 fun hl => ?_)
    obtain ⟨hwidth, hbits⟩ := (legalMask_iff s.cfg m).1 hl
    rcases hbad with hwide | ⟨i, hi, hreserved⟩
    · omega
    · exact absurd (hbits i hi) (by simp [hreserved])

/-! ## CAL (R228) -/

theorem pinOk_eq (cfg : Config) (c : Cmd) (v : Dev) :
    pinOk cfg c v = decide (cfg.pinCheck = .none ∨ c.args.fields[0]? = some v.pin) := by
  unfold pinOk
  cases cfg.pinCheck <;> simp [beq_eq_decide]

theorem calEntry_of_value {cfg : Config} {c : Cmd} {n : Nat} {t : Bytes}
    (hp : param cfg cfg.numericDefault.calPoint c.args.fields 1 parseUint = .value n)
    (ht : c.args.fields[2]? = some t) : calEntry cfg c = some (n, t) := by
  simp only [calEntry, hp, ht]

theorem calEntry_of_missing {cfg : Config} {c : Cmd}
    (h : param cfg cfg.numericDefault.calPoint c.args.fields 1 parseUint = .keep ∨ c.args.fields[2]? = none) :
    calEntry cfg c = none := by
  rcases h with hp | ht
  · simp only [calEntry, hp]
  · simp only [calEntry, ht]
    cases param cfg cfg.numericDefault.calPoint c.args.fields 1 parseUint <;> rfl

/-- Settles O31: the rule of CAL by whether there is a point and a value to write. -/
theorem calWritesThePointBehindThePin : Obligations.CalWritesThePointBehindThePin := by
  intro a s hg ok p
  set c : Cmd := ⟨.cal, a⟩
  have hok : pinOk s.cfg c = ok := funext (pinOk_eq s.cfg c)
  have hcal := dispatch_eq_dispatchAll (c := c) (fun _ => calRule_actsAs s.cfg c) hg
  refine ⟨fun n t hp ht => congrArg Host.Outcome.next (hcal.trans ?_),
    fun hmiss => congrArg Host.Outcome.next (hcal.trans ?_)⟩
  · have hentry := calEntry_of_value (c := c) hp ht
    have hdev : calDev s.cfg c = fun v => if ok v then { v with calibration := tabSet v.calibration n t } else v := by
      funext v
      simp only [calDev, hentry, hok]
    have hreply : calReply s.cfg c = fun v => if ok v then setReplyOf s.cfg c v else none := by
      funext v
      simp only [calReply, hentry, hok, Option.isSome_some, Bool.and_true]
    rw [hdev, hreply, hok]
  · have hentry := calEntry_of_missing (c := c) hmiss
    have hdev : calDev s.cfg c = id := by
      funext v
      simp only [calDev, hentry, id]
    have hreply : calReply s.cfg c = fun _ => none := by
      funext v
      simp [calReply, hentry]
    rw [hdev, hreply, hok]

/-! ## R and RESET (R233, R234) -/

/-- A command without a class is refused (60_exceptions.md R266). -/
theorem dispatchClass_of_no_class {c : Cmd} {s : State} (ht : targets s c.args.addr ≠ [])
    (hc : classOf s.cfg c.kind = none) : dispatchClass c s = refusedResult s c := by
  obtain ⟨d, ds, hd⟩ := List.exists_cons_of_ne_nil ht
  simp only [dispatchClass, hc, dispatchRefused, hd]
  rfl

/-- Settles O34: both run as commands without a class. -/
theorem rAndResetAreRefused : Obligations.RAndResetAreRefused := fun a _ ht =>
  ⟨fun hc => congrArg Host.Outcome.next (dispatchClass_of_no_class (c := ⟨.r, a⟩) ht hc),
    fun hc => congrArg Host.Outcome.next (dispatchClass_of_no_class (c := ⟨.reset, a⟩) ht hc)⟩

end Sys2Proof.Machine
end

section
/-! PROOFS. `WAKE` (44_commands.md R237): the rules that do not write it, and that the receive path never clears it: the
statement O36. -/

namespace Sys2Proof.Machine

/-! ## The rules that leave WAKE alone -/

theorem setReply_wake (x : Ctx) (c : Cmd) (d : Nat) : (x.setReply c d).st.wake = x.st.wake := by
  unfold Ctx.setReply
  split
  · rfl
  split
  · rfl
  · exact State.runReplyCrc_wake _ _

theorem applyMask_wake (x : Ctx) (d : Nat) (p : Param) : (x.applyMask d p).st.wake = x.st.wake := by
  unfold Ctx.applyMask
  split
  · rfl
  split <;> rfl

theorem nAddrRule_wake (c : Cmd) (several : Bool) (d : Nat) (x : Ctx) :
    (nAddrRule c several d x).st.wake = x.st.wake := by
  unfold nAddrRule
  split
  · rfl
  split
  · rfl
  split
  · rfl
  split
  · rfl
  split
  · exact setReply_wake x c d
  split
  · rfl
  · exact setReply_wake _ c d

theorem queryRule_wake (c : Cmd) (d : Nat) (x : Ctx) : (queryRule c d x).st.wake = x.st.wake := by
  unfold queryRule
  split
  · rfl
  · exact State.runReplyCrc_wake _ _

theorem aQueryRule_wake (d : Nat) (x : Ctx) : (aQueryRule d x).st.wake = x.st.wake := by
  unfold aQueryRule
  split
  · rfl
  · exact State.runReplyCrc_wake _ _

theorem formRule_wake (c : Cmd) (d : Nat) (x : Ctx) : (formRule c d x).st.wake = x.st.wake := by
  unfold formRule
  rw [setReply_wake]
  split <;> rfl

theorem maskRule_wake (c : Cmd) (d : Nat) (x : Ctx) : (maskRule c d x).st.wake = x.st.wake :=
  (setReply_wake _ c d).trans (applyMask_wake x d _)

theorem calRule_wake (c : Cmd) (d : Nat) (x : Ctx) : (calRule c d x).st.wake = x.st.wake := by
  unfold calRule
  split
  · rfl
  split
  · split
    · exact setReply_wake _ c d
    · rfl
    · rfl
  · rfl

/-- A dispatch of a rule that leaves `WAKE` alone, on targets or without. -/
theorem dispatch_wake {rule : Bool → Nat → Ctx → Ctx} (hr : ∀ b d x, (rule b d x).st.wake = x.st.wake) (c : Cmd)
    (s : State) : (dispatch c rule s).wake = s.wake := by
  cases ht : targets s c.args.addr with
  | nil => rw [dispatch_no_target rule ht, State.raise_wake]
  | cons d ds =>
    rw [dispatch_of_targets rule ht]
    exact foldl_keeps (g := State.wake) (hr _) (d :: ds) (Ctx.start s)

/-! ## O36 -/

/-- No act of the receive path clears `WAKE` (10_state.md R49). -/
theorem Act.wake_stays {s t : State} (a : Act s t) (hs : s.wake = true) : t.wake = true := by
  cases a with
  | wake => rfl
  | loud => rfl
  | _ => exact hs

/-- Settles O36: the six rules leave `WAKE` alone, and what no act clears no instruction does. -/
theorem wakeIsWrittenOnlyByItsCommands : Obligations.WakeIsWrittenOnlyByItsCommands := by
  refine ⟨fun a s t h => ?_, fun i s t h hs => (exec_acts h).keep (fun _ _ act => act.wake_stays) hs⟩
  rcases h with h | h | h | h | h | h <;> cases h
  · exact dispatch_wake (nAddrRule_wake _) _ s
  · exact dispatch_wake (fun _ => queryRule_wake _) _ s
  · exact dispatch_wake (fun _ => formRule_wake _) _ s
  · exact dispatch_wake (fun _ => maskRule_wake _) _ s
  · exact dispatch_wake (fun _ => calRule_wake _) _ s
  · exact dispatch_wake (fun _ => aQueryRule_wake) _ s

end Sys2Proof.Machine
end

section
/-! PROOFS. The outcomes that end a frame before its command (60_exceptions.md R260 to R269): the statements O18, O42, O45
and O58. -/

namespace Sys2Proof.Machine

/-! ## AddressOutOfRange (60_exceptions.md R264) -/

/-- AddressOutOfRange has no error reply. -/
theorem State.raise_addressOutOfRange (s : State) (addr : Option Nat) :
    s.raise .addressOutOfRange addr =
      { s with outlog := s.outlog ++ [⟨.addressOutOfRange, addr, none⟩], frame := none } := by
  simp [State.raise_eq, errReply]

/-- What a command makes of a state (43_dispatch.md R192): a rule runs over its targets, or the command is refused. -/
def Dispatched (c : Cmd) (s t : State) : Prop := (∃ rule, t = dispatch c rule s) ∨ t = dispatchRefused c s

theorem dispatched_dispatchClass (c : Cmd) (s : State) : Dispatched c s (dispatchClass c s) := by
  unfold dispatchClass
  cases classOf s.cfg c.kind with
  | none => exact .inr rfl
  | some k => cases k <;> exact .inl ⟨_, rfl⟩

/-- Every command row dispatches its command. -/
theorem exec_dispatches {i : Instr} {c : Cmd} (s : State) (h : i.toCmd? = some c) :
    ∃ t, exec i s = .next t ∧ Dispatched c s t := by
  cases i with
  | r a => cases h; exact ⟨_, rfl, dispatched_dispatchClass _ s⟩
  | reset a => cases h; exact ⟨_, rfl, dispatched_dispatchClass _ s⟩
  | _ => cases h <;> exact ⟨_, rfl, .inl ⟨_, rfl⟩⟩

/-- So does every command of a frame, a configured one among them (43_dispatch.md R191). -/
theorem execCmd_dispatches (c : Cmd) (s : State) : ∃ t, execCmd c s = .next t ∧ Dispatched c s t := by
  obtain ⟨kind, a⟩ := c
  cases kind with
  | autosend =>
    unfold execCmd
    dsimp only
    split <;> exact ⟨_, rfl, .inl ⟨_, rfl⟩⟩
  | r => exact ⟨_, rfl, dispatched_dispatchClass _ s⟩
  | reset => exact ⟨_, rfl, dispatched_dispatchClass _ s⟩
  | configured n => exact ⟨_, rfl, dispatched_dispatchClass _ s⟩
  | _ => exact ⟨_, rfl, .inl ⟨_, rfl⟩⟩

/-- Without a target neither a rule nor a refusal is reached. -/
theorem Dispatched.eq_raise_of_no_target {c : Cmd} {s t : State} (h : Dispatched c s t)
    (ht : targets s c.args.addr = []) : t = s.raise .addressOutOfRange c.args.addr := by
  rcases h with ⟨rule, rfl⟩ | rfl
  · exact dispatch_no_target rule ht
  · simp only [dispatchRefused, ht]

/-- Settles O18: every command row dispatches, and a dispatch without targets raises. -/
theorem commandWithoutTargetOnlyLogs : Obligations.CommandWithoutTargetOnlyLogs := by
  intro i c s hc ht
  obtain ⟨t, hexec, hdisp⟩ := exec_dispatches s hc
  rw [hexec, hdisp.eq_raise_of_no_target ht, State.raise_addressOutOfRange]

/-- A located frame without a target ends there: neither its checksum nor its keyword is looked at (R267). -/
theorem frameStep_of_no_target {raw : Bytes} {s : State} {f : Frame} (hf : locateFrame s.cfg raw = some f)
    (ht : targets s f.addr = []) : frameStep raw s = .next (s.raise .addressOutOfRange f.addr) := by
  simp only [frameStep, hf, ht]

/-- Settles O42, on the state with the buffer taken. -/
theorem addressOutOfRangeComesFirst : Obligations.AddressOutOfRangeComesFirst := by
  intro b s f hb hf ht
  rw [exec_rxByte_of_completesFrame hb, frameStep_of_no_target (s := s.taken) hf ht, State.raise_addressOutOfRange]
  rfl

/-! ## UnknownCommand (60_exceptions.md R263) -/

/-- The first of several fields is what stands before the first delimiter. -/
theorem takeWhile_ne_of_split {d : Byte} {t f g : Bytes} {fs : List Bytes} (h : split t d = f :: g :: fs) :
    t.takeWhile (· != d) = f := by
  obtain ⟨hd, rest, rfl, -⟩ := split_eq_cons_cons h
  have hf : ∀ b ∈ f, (b != d) = true := fun b hb => bne_iff_ne.2 fun e => hd (e ▸ hb)
  simp [List.takeWhile_append_of_pos hf]

/-- In `BLOCK_COLON` a keyword that is not the whole of the first field names no command (42_tokenizer.md R167). -/
theorem tokenizeBc_eq_none {cfg : Config} {p : Bytes} (addr : Option Nat)
    (h : ∀ e, matchKeyword cfg (p.takeWhile (· != Ascii.colon)) = some e →
      e.1.length ≠ (p.takeWhile (· != Ascii.colon)).length) : tokenizeBc cfg addr p = none := by
  unfold tokenizeBc
  split
  · rename_i hsplit
    rw [takeWhile_ne_of_split hsplit] at h
    exact Option.bind_eq_none_iff.2 fun e he => if_neg (h e he)
  · rfl

/-- A payload whose keyword is in no entry has no command, in every family. -/
theorem tokenize_eq_none {cfg : Config} {p : Bytes} (addr : Option Nat)
    (htail : cfg.family ≠ .blockColon → matchKeyword cfg p = none)
    (hcolon : cfg.family = .blockColon → ∀ e, matchKeyword cfg (p.takeWhile (· != Ascii.colon)) = some e →
      e.1.length ≠ (p.takeWhile (· != Ascii.colon)).length) : tokenize cfg addr p = none := by
  by_cases hf : cfg.family = .blockColon
  · rw [tokenize_eq_tokenizeBc hf, tokenizeBc_eq_none addr (hcolon hf)]
  · rw [tokenize_eq_tokenizeTail hf, tokenizeTail_of_noMatch addr (htail hf)]

/-- A frame with targets whose checksum is not looked at: its payload runs (R199, 41_framing.md R138, R146). -/
theorem exec_rxByte_of_unchecked {b : Byte} {s : State} {f : Frame} (hb : CompletesFrame s b)
    (hf : locateFrame s.cfg (pendingFrame s b) = some f) (ht : targets s f.addr ≠ [])
    (hun : chkApplies s (targets s f.addr) = false ∨ s.cfg.family.isLine = true ∧ s.cfg.lineCheck = none) :
    exec (.rxByte b) s = runPayload f.addr f.payload s.taken := by
  rw [exec_rxByte_of_completesFrame hb, frameStep_of_located (s := s.taken) hf ht]
  split
  · exact checkLine_unchecked (s := s.taken) (hun.imp_right And.right)
  · rename_i hblock
    exact checkBlock_unchecked (s := s.taken) (hun.resolve_right fun h => hblock h.1)

/-- A checked block frame whose CRC is right: its payload runs after the CRC unit has run over its span (R145). -/
theorem exec_rxByte_of_crcRight {b : Byte} {s : State} {f : Frame} (hb : CompletesFrame s b)
    (hf : locateFrame s.cfg (pendingFrame s b) = some f) (ht : targets s f.addr ≠ [])
    (hblock : s.cfg.family.isLine = false) (hchk : chkApplies s (targets s f.addr) = true) (hcrc : CrcRight s.cfg f) :
    exec (.rxByte b) s = runPayload f.addr f.payload (s.taken.runCrc f.span) := by
  rw [exec_rxByte_of_completesFrame hb, frameStep_of_located (s := s.taken) hf ht]
  exact (if_neg (Bool.eq_false_iff.1 hblock)).trans (checkBlock_passed (s := s.taken) hchk hcrc)

/-- Settles O45: the checksum stage hands the payload on, unchecked or after the CRC unit's run, and it has no command. -/
theorem unknownKeywordIsAnUnknownCommand : Obligations.UnknownKeywordIsAnUnknownCommand := by
  intro b s f hb hf ht htail hcolon checks
  have hno : tokenize s.cfg f.addr f.payload = none := tokenize_eq_none _ htail hcolon
  have hchk : chkApplies s (targets s f.addr) = true ↔ checks := chkApplies_iff s _
  refine ⟨fun hun => ?_, fun hblock hc hcrc => ?_⟩
  · rw [← hchk, Bool.not_eq_true] at hun
    rw [exec_rxByte_of_unchecked hb hf ht hun, runPayload_of_unknown (s := s.taken) hno]
    rfl
  · rw [exec_rxByte_of_crcRight hb hf ht hblock (hchk.2 hc) hcrc,
      runPayload_of_unknown (s := s.taken.runCrc f.span) hno]
    rfl

/-! ## Precision (60_exceptions.md R269) -/

/-- How a frame step ends: its outcome is raised, or the command of its payload runs; before that only the CRC unit may
have run. -/
inductive FrameEnd (s : State) : Result → Prop where
  | raised (x y : Half) (o : OutcomeCode) (addr : Option Nat) :
      FrameEnd s (.next (({ s with crcr := x, crcOut := y } : State).raise o addr))
  | command (x y : Half) (c : Cmd) : FrameEnd s (execCmd c { s with crcr := x, crcOut := y })

theorem frameEnd_runPayload (s : State) (x y : Half) (addr : Option Nat) (p : Bytes) :
    FrameEnd s (runPayload addr p { s with crcr := x, crcOut := y }) := by
  unfold runPayload
  split
  · exact .raised x y _ addr
  · exact .command x y _

theorem frameEnd_checkLine (line : Bytes) (f : Frame) (ts : List Nat) (s : State) :
    FrameEnd s (checkLine line f ts s) := by
  have hrun := frameEnd_runPayload s s.crcr s.crcOut f.addr
  unfold checkLine
  split
  · exact hrun _
  split
  · split
    · exact hrun _
    · exact .raised s.crcr s.crcOut _ _
  · exact hrun _

theorem frameEnd_checkBlock (f : Frame) (ts : List Nat) (s : State) : FrameEnd s (checkBlock f ts s) := by
  obtain ⟨x, y, hcrc⟩ := s.runVerifyCrc_only_crc (f.crcfield.getD []) f.span
  unfold checkBlock
  split
  · dsimp only
    rw [hcrc]
    split
    · exact frameEnd_runPayload s x y _ _
    · exact .raised x y _ _
  · exact frameEnd_runPayload s s.crcr s.crcOut _ _

/-- The stages of a frame step, in their order (43_dispatch.md R199). -/
theorem frameEnd_frameStep (raw : Bytes) (s : State) : FrameEnd s (frameStep raw s) := by
  unfold frameStep
  split
  · exact .raised s.crcr s.crcOut _ _
  split
  · exact .raised s.crcr s.crcOut _ _
  split
  · exact frameEnd_checkLine raw _ _ s
  · exact frameEnd_checkBlock _ _ s

/-- What an error outcome must leave as it was: the records, the address table and `WAKE`. -/
def State.commanded (s : State) : List Dev × List (Nat × Nat) × Bool := (s.devs, s.atab, s.wake)

/-- The last log entry is OK or OutOfRange, or what a command may change is as it was. -/
def EndsPrecisely (s t : State) : Prop :=
  ∃ l e, t.outlog = l ++ [e] ∧ (e.outcome = .ok ∨ e.outcome = .outOfRange ∨ t.commanded = s.commanded)

theorem endsPrecisely_raise (s : State) (o : OutcomeCode) (addr : Option Nat) : EndsPrecisely s (s.raise o addr) :=
  ⟨_, _, rfl, .inr (.inr rfl)⟩

/-- Whatever its targets' rule has done, a dispatch that ends logs OK or OutOfRange. -/
theorem endsPrecisely_finish (s : State) (x : Ctx) (c : Cmd) : EndsPrecisely s (x.finish c) := by
  refine ⟨_, _, rfl, ?_⟩
  cases x.oor with
  | true => exact .inr (.inl rfl)
  | false => exact .inl rfl

theorem Dispatched.endsPrecisely {c : Cmd} {s t : State} (h : Dispatched c s t) : EndsPrecisely s t := by
  cases ht : targets s c.args.addr with
  | nil =>
    rw [h.eq_raise_of_no_target ht]
    exact endsPrecisely_raise s _ _
  | cons d ds =>
    rcases h with ⟨rule, rfl⟩ | rfl
    · rw [dispatch_of_targets rule ht]
      exact endsPrecisely_finish s _ c
    · simp only [dispatchRefused, ht]
      exact ⟨_, _, rfl, .inr (.inr rfl)⟩

theorem FrameEnd.endsPrecisely {s t : State} {r : Result} (h : FrameEnd s r) (hr : r = .next t) :
    EndsPrecisely s t := by
  cases h with
  | raised x y o addr => cases hr; exact endsPrecisely_raise { s with crcr := x, crcOut := y } o addr
  | command x y c =>
    obtain ⟨u, hu, hdisp⟩ := execCmd_dispatches c { s with crcr := x, crcOut := y }
    cases hu.symm.trans hr
    exact hdisp.endsPrecisely

/-- Settles O58: a frame step ends precisely (`frameEnd_frameStep`), and the one entry it logs is the last. -/
theorem errorOutcomesArePrecise : Obligations.ErrorOutcomesArePrecise := by
  intro b s t e hb hexec hlog hok hoor
  have hstep := (exec_rxByte_of_completesFrame hb).symm.trans hexec
  obtain ⟨l, e', hlast, hkept⟩ := (frameEnd_frameStep _ s.taken).endsPrecisely hstep
  obtain rfl : e' = e := List.singleton_inj.1 (List.append_inj_right' (hlast.symm.trans hlog) rfl)
  have hsame : t.commanded = s.commanded := (hkept.resolve_left hok).resolve_left hoor
  simpa [State.commanded] using hsame

end Sys2Proof.Machine
end

section
/-! PROOFS. The sender's moves (60_exceptions.md R274): the devices in address order, those that are due, what serving them
makes of the state, and what stamping does: the statements O49 and O50. -/

namespace Sys2Proof.Machine

/-! ## Address order -/

/-- The address of a device's record. -/
def addressAt (devs : List Dev) (d : Nat) : Nat := (devs[d]?.map (·.address)).getD 0

/-- `d` comes before `e` in address order. -/
abbrev AddressLe (devs : List Dev) : Nat → Nat → Prop := addressAt devs ⁻¹'o (· ≤ ·)

theorem addressAt_of_getElem? {devs : List Dev} {d : Nat} {v : Dev} (h : devs[d]? = some v) :
    addressAt devs d = v.address := by
  simp [addressAt, h]

theorem insertByAddress_eq_orderedInsert (devs : List Dev) (d : Nat) (l : List Nat) :
    insertByAddress devs d l = l.orderedInsert (AddressLe devs) d := by
  induction l with
  | nil => rfl
  | cons e t ih =>
    rw [insertByAddress, List.orderedInsert_cons, ih]
    rfl

/-- The device ids in address order: an insertion sort. -/
theorem idsByAddress_eq_insertionSort (devs : List Dev) :
    idsByAddress devs = (List.range devs.length).insertionSort (AddressLe devs) := by
  unfold idsByAddress List.insertionSort
  congr 1
  funext d l
  exact insertByAddress_eq_orderedInsert devs d l

theorem mem_idsByAddress {devs : List Dev} {d : Nat} : d ∈ idsByAddress devs ↔ d < devs.length := by
  rw [idsByAddress_eq_insertionSort, List.mem_insertionSort, List.mem_range]

theorem nodup_idsByAddress (devs : List Dev) : (idsByAddress devs).Nodup := by
  rw [idsByAddress_eq_insertionSort]
  exact (List.perm_insertionSort _ _).nodup_iff.2 List.nodup_range

theorem pairwise_idsByAddress (devs : List Dev) : (idsByAddress devs).Pairwise (AddressLe devs) := by
  rw [idsByAddress_eq_insertionSort]
  exact List.pairwise_insertionSort _ _

/-! ## The devices that are due -/

/-- `due(d)` (R274) in words. -/
theorem isDue_iff (now : Nat) (v : Dev) :
    Dev.isDue now v = true ↔
      v.mode = .continuous ∧ (v.lastTx = none ∨ ∃ t, v.lastTx = some t ∧ v.interval ≤ now - t) := by
  unfold Dev.isDue
  cases v.lastTx <;> simp

/-- The device's record is due. -/
def State.dueAt (s : State) (d : Nat) : Bool := s.devs[d]?.any (Dev.isDue s.now)

theorem State.dueAt_iff {s : State} {d : Nat} :
    s.dueAt d = true ↔ ∃ v, s.devs[d]? = some v ∧ Dev.isDue s.now v = true := by
  simp [State.dueAt, Option.any_eq_true]

/-- The due devices of a list. -/
def State.dueAmong (s : State) (ds : List Nat) : List Nat := ds.filter s.dueAt

@[simp] theorem State.dueAmong_nil (s : State) : s.dueAmong [] = [] := rfl

theorem State.dueAmong_cons_of_due {s : State} {d : Nat} (ds : List Nat) (h : s.dueAt d = true) :
    s.dueAmong (d :: ds) = d :: s.dueAmong ds := List.filter_cons_of_pos h

theorem State.dueAmong_cons_of_not_due {s : State} {d : Nat} (ds : List Nat) (h : ¬ s.dueAt d = true) :
    s.dueAmong (d :: ds) = s.dueAmong ds := List.filter_cons_of_neg h

theorem State.mem_dueAmong_idsByAddress {s : State} {d : Nat} :
    d ∈ s.dueAmong (idsByAddress s.devs) ↔ ∃ v, s.devs[d]? = some v ∧ Dev.isDue s.now v = true := by
  rw [State.dueAmong, List.mem_filter, mem_idsByAddress, State.dueAt_iff, and_iff_right_iff_imp]
  rintro ⟨v, hv, -⟩
  exact (List.getElem?_eq_some_iff.1 hv).1

/-- Serving a device does not change whether another is due. -/
theorem State.dueAmong_collect {s : State} {d : Nat} {ds : List Nat} (hd : d ∉ ds) (v : Dev) (m : Bytes) :
    (s.collect d v m).dueAmong ds = s.dueAmong ds := by
  refine List.filter_congr fun e he => ?_
  have hne : d ≠ e := fun h => hd (h ▸ he)
  simp [State.dueAt, State.collect, List.getElem?_set_ne hne]

/-- Where no record is due, no device is. -/
theorem State.dueAmong_of_not_anyDue {s : State} (h : anyDue s = false) (ds : List Nat) : s.dueAmong ds = [] := by
  refine List.filter_eq_nil_iff.2 fun d _ hd => ?_
  obtain ⟨v, hv, hdue⟩ := State.dueAt_iff.1 hd
  exact absurd hdue (List.any_eq_false.1 h v (List.mem_of_getElem? hv))

/-! ## The devices that are served -/

/-- The due devices that the feed has a measurement for, each with it. -/
def servedOf (due : List Nat) (feed : List (Option Bytes)) : List (Nat × Bytes) :=
  (due.zip feed).filterMap fun p => p.2.map fun m => (p.1, m)

@[simp] theorem servedOf_nil (feed : List (Option Bytes)) : servedOf [] feed = [] := rfl

@[simp] theorem servedOf_no_feed (due : List Nat) : servedOf due [] = [] := by
  simp [servedOf]

@[simp] theorem servedOf_cons_none (d : Nat) (due : List Nat) (feed : List (Option Bytes)) :
    servedOf (d :: due) (none :: feed) = servedOf due feed := rfl

@[simp] theorem servedOf_cons_some (d : Nat) (due : List Nat) (m : Bytes) (feed : List (Option Bytes)) :
    servedOf (d :: due) (some m :: feed) = (d, m) :: servedOf due feed := rfl

theorem mem_of_mem_servedOf {due : List Nat} {feed : List (Option Bytes)} {p : Nat × Bytes} (h : p ∈ servedOf due feed) :
    p.1 ∈ due := by
  obtain ⟨⟨d, r⟩, hzip, hmap⟩ := List.mem_filterMap.1 h
  obtain ⟨m, -, rfl⟩ := Option.map_eq_some_iff.1 hmap
  exact (List.of_mem_zip hzip).1

/-- The records with the measurements of the devices served. -/
def measuredDevs (devs : List Dev) (served : List (Nat × Bytes)) : List Dev :=
  devs.mapIdx fun d v => ((served.find? fun p => p.1 == d).map fun p => { v with meas := p.2 }).getD v

/-- The messages of the devices served. -/
def outputsOf (cfg : Config) (devs : List Dev) (served : List (Nat × Bytes)) : List (Nat × Bytes) :=
  served.filterMap fun p => devs[p.1]?.map fun v => (p.1, cfg.formatMeasurement { v with meas := p.2 })

/-- The state after the devices have been served. -/
def State.serve (s : State) (served : List (Nat × Bytes)) : State :=
  { s with devs := measuredDevs s.devs served, pending := s.pending ++ outputsOf s.cfg s.devs served }

theorem measuredDevs_nil (devs : List Dev) : measuredDevs devs [] = devs := by
  apply List.ext_getElem?
  simp [measuredDevs]

theorem State.serve_nil (s : State) : s.serve [] = s := by
  simp [State.serve, measuredDevs_nil, outputsOf]

/-- A measurement stored before those of other devices. -/
theorem measuredDevs_set {devs : List Dev} {d : Nat} {v : Dev} {served : List (Nat × Bytes)} (m : Bytes)
    (hv : devs[d]? = some v) (hfresh : ∀ p ∈ served, p.1 ≠ d) :
    measuredDevs (devs.set d { v with meas := m }) served = measuredDevs devs ((d, m) :: served) := by
  apply List.ext_getElem?
  intro i
  rw [measuredDevs, measuredDevs, List.getElem?_mapIdx, List.getElem?_mapIdx]
  by_cases hi : d = i
  · subst hi
    have hnone : (served.find? fun p => p.1 == d) = none :=
      List.find?_eq_none.2 fun p hp => by simp [hfresh p hp]
    simp [getElem?_set_self' _ hv, hv, hnone]
  · simp [List.getElem?_set_ne hi, hi]

/-- A message queued before those of other devices. -/
theorem outputsOf_set {cfg : Config} {devs : List Dev} {d : Nat} {v : Dev} {served : List (Nat × Bytes)} (m : Bytes)
    (hv : devs[d]? = some v) (hfresh : ∀ p ∈ served, p.1 ≠ d) :
    (d, cfg.formatMeasurement { v with meas := m }) :: outputsOf cfg (devs.set d { v with meas := m }) served =
      outputsOf cfg devs ((d, m) :: served) := by
  have hrest : outputsOf cfg (devs.set d { v with meas := m }) served = outputsOf cfg devs served :=
    List.filterMap_congr fun p hp => by rw [List.getElem?_set_ne (hfresh p hp).symm]
  rw [hrest]
  simp [outputsOf, hv]

/-- One device served, then others. -/
theorem State.serve_collect {s : State} {d : Nat} {v : Dev} {served : List (Nat × Bytes)} (m : Bytes)
    (hv : s.devs[d]? = some v) (hfresh : ∀ p ∈ served, p.1 ≠ d) :
    (s.collect d v m).serve served = s.serve ((d, m) :: served) := by
  simp only [State.serve, State.collect, measuredDevs_set m hv hfresh, ← outputsOf_set m hv hfresh, List.append_assoc,
    List.singleton_append]

/-- The loop of SENDER_STEP over different devices: the due ones meet the results of the feed in turn (R274). -/
theorem serveDevices_eq_serve (s : State) (ds : List Nat) (feed : List (Option Bytes)) (hn : ds.Nodup) :
    serveDevices s ds feed = s.serve (servedOf (s.dueAmong ds) feed) := by
  induction ds generalizing s feed with
  | nil => exact s.serve_nil.symm
  | cons d ds ih =>
    obtain ⟨hd, hds⟩ := List.nodup_cons.1 hn
    unfold serveDevices
    split
    case h_1 hv =>
      rw [ih s feed hds, State.dueAmong_cons_of_not_due ds (by simp [State.dueAt, hv])]
    case h_2 v hv =>
      split
      case isTrue hdue =>
        rw [State.dueAmong_cons_of_due ds (State.dueAt_iff.2 ⟨v, hv, hdue⟩)]
        match feed with
        | [] => simp [State.serve_nil]
        | none :: feed' => exact ih s feed' hds
        | some m :: feed' =>
          have hfresh : ∀ p ∈ servedOf (s.dueAmong ds) feed', p.1 ≠ d := fun p hp h =>
            hd (h ▸ List.mem_of_mem_filter (mem_of_mem_servedOf hp))
          calc serveDevices (s.collect d v m) ds feed'
              = (s.collect d v m).serve (servedOf (s.dueAmong ds) feed') := by
                rw [ih _ feed' hds, State.dueAmong_collect hd]
            _ = s.serve (servedOf (d :: s.dueAmong ds) (some m :: feed')) := State.serve_collect m hv hfresh
      case isFalse hdue =>
        rw [ih s feed hds, State.dueAmong_cons_of_not_due ds (by simp [State.dueAt, hv, hdue])]

/-- Devices with records that are served leave a message. -/
theorem outputsOf_eq_nil_iff {cfg : Config} {devs : List Dev} {served : List (Nat × Bytes)}
    (h : ∀ p ∈ served, ∃ v, devs[p.1]? = some v) : outputsOf cfg devs served = [] ↔ served = [] := by
  refine ⟨fun hout => List.eq_nil_iff_forall_not_mem.2 fun p hp => ?_, fun hs => by rw [hs]; rfl⟩
  obtain ⟨v, hv⟩ := h p hp
  simpa [hv] using List.filterMap_eq_nil_iff.1 hout p hp

/-! ## The phases of the sender (R274) -/

theorem step_of_sender {s : State} {dt : Nat} {feed : List (Option Bytes)} {rest : List Move}
    (h : s.inbox = .sender dt feed :: rest) : step s = .next (senderMove dt feed { s with inbox := rest }) :=
  step_of_move h

section
variable {s : State} (dt : Nat) (feed : List (Option Bytes))

theorem senderMove_of_waiting (h : s.senderPhase = .waiting) :
    senderMove dt feed s = senderStep feed { s with now := s.now + dt } := by
  unfold senderMove
  rw [h]

theorem senderMove_of_collected (h : s.senderPhase = .collected) :
    senderMove dt feed s = senderWrite { s with now := s.now + dt } := by
  unfold senderMove
  rw [h]

theorem senderMove_of_written (h : s.senderPhase = .written) :
    senderMove dt feed s = senderStamp { s with now := s.now + dt } := by
  unfold senderMove
  rw [h]

theorem senderMove_of_exited (h : s.senderPhase = .exited) : senderMove dt feed s = s := by
  unfold senderMove
  rw [h]

end

/-! ## SENDER_STEP (R274) -/

theorem senderStep_of_shutdown {s : State} (feed : List (Option Bytes)) (h : s.shutdown = true) :
    senderStep feed s = { s with senderPhase := .exited } := if_pos h

/-- The devices that a SENDER_STEP serves. -/
def State.servedBy (s : State) (feed : List (Option Bytes)) : List (Nat × Bytes) :=
  servedOf (s.dueAmong (idsByAddress s.devs)) feed

/-- A SENDER_STEP before SHUTDOWN; one that is not enabled has no device to serve and `WAKE` to clear. -/
theorem senderStep_of_running {s : State} (feed : List (Option Bytes)) (hs : s.shutdown = false)
    (hw : s.senderPhase = .waiting) (hp : s.pending = []) :
    senderStep feed s = (({ s with wake := false } : State).serve (s.servedBy feed)).afterServe := by
  unfold senderStep
  rw [if_neg (by simp [hs])]
  split
  · exact congrArg State.afterServe (serveDevices_eq_serve { s with wake := false } _ feed (nodup_idsByAddress s.devs))
  · rename_i hen
    simp only [senderEnabled, hs, Bool.or_false, Bool.or_eq_true, not_or, Bool.not_eq_true] at hen
    obtain ⟨hwake, hdue⟩ := hen
    rw [State.servedBy, State.dueAmong_of_not_anyDue hdue, servedOf_nil, State.serve_nil]
    cases s
    simp_all [State.afterServe]

/-- The sender collects where it has served a device. -/
theorem State.afterServe_serve {s : State} {served : List (Nat × Bytes)} (hp : s.pending = [])
    (h : ∀ p ∈ served, ∃ v, s.devs[p.1]? = some v) :
    (s.serve served).afterServe =
      { s with
        devs := measuredDevs s.devs served
        pending := outputsOf s.cfg s.devs served
        senderPhase := if served = [] then .waiting else .collected } := by
  simp only [State.afterServe, State.serve, hp, List.nil_append, outputsOf_eq_nil_iff h]

/-- Settles O49: the devices due are those of `idsByAddress` in its order, and the loop serves them as the feed comes
(`serveDevices_eq_serve`). -/
theorem senderServesDueDevices : Obligations.SenderServesDueDevices := by
  intro s dt feed rest hinbox hphase hpend isDue
  set t : State := { s with inbox := rest, now := s.now + dt }
  have hstep : step s = .next (senderStep feed t) :=
    (step_of_sender hinbox).trans (congrArg _ (senderMove_of_waiting (s := { s with inbox := rest }) dt feed hphase))
  refine ⟨fun hshut => ?_, fun hshut => ⟨t.dueAmong (idsByAddress s.devs), fun d => ?_, ?_, ?_, ?_⟩⟩
  · rw [hstep, senderStep_of_shutdown (s := t) feed hshut]
  · simp only [isDue, ← isDue_iff]
    exact State.mem_dueAmong_idsByAddress (s := t)
  · exact (nodup_idsByAddress s.devs).filter _
  · refine ((pairwise_idsByAddress s.devs).filter _).imp fun hle v w hv hw => ?_
    rw [← addressAt_of_getElem? hv, ← addressAt_of_getElem? hw]
    exact hle
  · have hrec : ∀ p ∈ t.servedBy feed, ∃ v, t.devs[p.1]? = some v := fun p hp => by
      obtain ⟨v, hv, -⟩ := State.mem_dueAmong_idsByAddress.1 (mem_of_mem_servedOf hp)
      exact ⟨v, hv⟩
    rw [hstep, senderStep_of_running (s := t) feed hshut hphase hpend,
      State.afterServe_serve (s := { t with wake := false }) hpend hrec]
    rfl

/-! ## SENDER_WRITE and SENDER_STAMP (R274) -/

/-- A change that is the same made twice, made to one record and then to several. -/
theorem updateAll_modify {upd : Dev → Dev} (hupd : ∀ v, upd (upd v) = upd v) (l : List Dev) (d : Nat) (ts : List Nat) :
    updateAll (l.modify d upd) ts upd = updateAll l (d :: ts) upd := by
  apply List.ext_getElem?
  intro i
  rw [updateAll_getElem?, updateAll_getElem?, List.getElem?_modify]
  by_cases hi : d = i
  · subst hi
    cases l[d]? <;> simp [hupd]
  · simp [hi, Ne.symm hi]

theorem State.stampAll_eq (s : State) (n : Nat) (ps : List (Nat × Bytes)) :
    s.stampAll n ps = { s with devs := updateAll s.devs (ps.map (·.1)) fun v => { v with lastTx := some n } } := by
  induction ps generalizing s with
  | nil => rw [List.map_nil, updateAll_nil]; rfl
  | cons p ps ih =>
    rw [List.map_cons, ← updateAll_modify (upd := fun v => { v with lastTx := some n }) (fun _ => rfl)]
    exact ih _

/-- Settles O50: the three later phases of the sender. -/
theorem senderWritesThenStamps : Obligations.SenderWritesThenStamps := by
  intro s dt feed rest hinbox
  rw [step_of_sender hinbox]
  refine ⟨fun hphase => ?_, fun hphase => ?_, fun hphase => ?_⟩
  · rw [senderMove_of_collected (s := { s with inbox := rest }) dt feed hphase]
    rfl
  · rw [senderMove_of_written (s := { s with inbox := rest }) dt feed hphase, senderStamp_eq, State.stampAll_eq]
  · rw [senderMove_of_exited (s := { s with inbox := rest }) dt feed hphase]

end Sys2Proof.Machine
end

section
/-! PROOFS. Modes and intervals (70_reset_and_hazards.md R299): a command that changes either wakes the sender, and no
other agent changes one: the statement O56. -/

namespace Sys2Proof.Machine

/-- The fields by which the sender decides when a device is due (60_exceptions.md R274). -/
def pacingOf (v : Dev) : Mode × Nat := (v.mode, v.interval)

/-- An act of the receive path leaves every mode and interval as it is, or leaves `WAKE` set. -/
theorem Act.pacing_or_wake {s t : State} (a : Act s t) :
    t.devs.map pacingOf = s.devs.map pacingOf ∨ t.wake = true := by
  cases a with
  | quiet d f hf hm hi => exact .inl (map_modify_eq (fun v => Prod.ext (hm v) (hi v)) _ _)
  | loud => exact .inr rfl
  | move d v new => exact .inl (map_modify_eq (f := fun w => { w with address := new }) (fun _ => rfl) _ _)
  | _ => exact .inl rfl

/-- The same of acts one after another: no later one clears `WAKE`. -/
theorem Acts.pacing_or_wake {s t : State} (h : Acts s t) :
    t.devs.map pacingOf = s.devs.map pacingOf ∨ t.wake = true := by
  refine h.keep (P := fun u => u.devs.map pacingOf = s.devs.map pacingOf ∨ u.wake = true) (fun u w a hu => ?_)
    (.inl rfl)
  rcases hu with hu | hu
  · exact a.pacing_or_wake.imp_left (·.trans hu)
  · exact .inr (a.wake_stays hu)

/-- The other agents change no mode and no interval. -/
theorem EnvActs.map_pacingOf {s t : State} (h : EnvActs s t) : t.devs.map pacingOf = s.devs.map pacingOf :=
  h.keep (P := fun u => u.devs.map pacingOf = s.devs.map pacingOf)
    (fun _ _ a hu => (a.map_devs (fun _ _ => rfl) fun _ _ => rfl).trans hu) rfl

theorem step_pacing_or_wake {s t : State} (h : step s = .next t) :
    t.devs.map pacingOf = s.devs.map pacingOf ∨ t.wake = true := by
  rcases step_next h with rfl | ⟨m, rest, -, hm⟩
  · exact .inl rfl
  · rcases stepMove_acts hm with ha | he
    · exact ha.pacing_or_wake
    · exact .inl he.map_pacingOf

/-- Settles O56: where a step leaves `WAKE` clear, the modes and the intervals after it are those before it. -/
theorem modeOrIntervalChangeLeavesWakeSet : Obligations.ModeOrIntervalChangeLeavesWakeSet := by
  intro s t d v w h hv hw hchange
  rcases step_pacing_or_wake h with hsame | hwake
  · obtain ⟨hmode, hinterval⟩ := Prod.mk.inj (eq_of_map_eq hsame hv hw)
    exact hchange.elim (absurd hmode) (absurd hinterval)
  · exact hwake

end Sys2Proof.Machine
end

section
/-! PROOFS. The state after reset (70_reset_and_hazards.md R290 to R294): its records and its address table, and the
invariant of the machine in it: the statements O51 and O52. -/

namespace Sys2Proof.Machine

section

variable (cfg : Config)

/-! ## The records -/

@[simp] theorem resetWith_cfg : (State.resetWith cfg).cfg = cfg := rfl

@[simp] theorem resetWith_devs : (State.resetWith cfg).devs = cfg.devices.map (Dev.atReset cfg) := rfl

theorem resetWith_atab : (State.resetWith cfg).atab = addressTable 0 cfg.devices := rfl

theorem resetWith_addresses : (State.resetWith cfg).devs.map (·.address) = cfg.devices.map (·.address) := by
  rw [resetWith_devs, List.map_map]
  rfl

theorem mem_resetWith_devs {w : Dev} : w ∈ (State.resetWith cfg).devs ↔ ∃ v ∈ cfg.devices, Dev.atReset cfg v = w :=
  List.mem_map

theorem resetWith_lastTx {w : Dev} (h : w ∈ (State.resetWith cfg).devs) : w.lastTx = none := by
  obtain ⟨v, -, rfl⟩ := (mem_resetWith_devs cfg).1 h
  rfl

/-- Reset writes no field whose values R46 bounds. -/
theorem legal_atReset (v : Dev) : (Dev.atReset cfg v).legal cfg ↔ v.legal cfg := Iff.rfl

/-! ## The address table -/

/-- Where the configured addresses are distinct (R292), the table maps each to its device. -/
theorem tabGet_resetWith (hn : (cfg.devices.map (·.address)).Nodup) (a d : Nat) :
    tabGet (State.resetWith cfg).atab a = some d ↔ ∃ v, cfg.devices[d]? = some v ∧ v.address = a := by
  simpa [resetWith_atab] using tabGet_addressTable 0 cfg.devices hn a d

theorem tableOk_resetWith (hn : (cfg.devices.map (·.address)).Nodup) : (State.resetWith cfg).TableOk := by
  refine State.tableOk_iff.2 ⟨tabWf_reset cfg, fun a d => ?_⟩
  rw [tabGet_resetWith cfg hn, resetWith_addresses, List.getElem?_map, Option.map_eq_some_iff]

/-! ## The parts of the invariant -/

theorem rxOk_resetWith : (State.resetWith cfg).RxOk :=
  ⟨Nat.zero_le _, fun _ hb => absurd hb List.not_mem_nil, fun hd => Bool.noConfusion hd⟩

theorem devsOk_resetWith (h : ∀ v ∈ cfg.devices, v.legal cfg) : (State.resetWith cfg).DevsOk := by
  refine ⟨List.length_map _, fun w hw => ?_⟩
  obtain ⟨v, hv, rfl⟩ := (mem_resetWith_devs cfg).1 hw
  exact (legal_atReset cfg v).2 (h v hv)

theorem senderOk_resetWith : (State.resetWith cfg).SenderOk := by
  refine ⟨fun _ => rfl, fun _ hp => absurd hp List.not_mem_nil, fun w hw n hn => ?_⟩
  rw [resetWith_lastTx cfg hw] at hn
  cases hn

theorem inv_resetWith (h : cfg.wf) : (State.resetWith cfg).Inv := by
  have ⟨_, _, _, hlegal, hnodup, _⟩ := h
  exact ⟨h, rxOk_resetWith cfg, tableOk_resetWith cfg hnodup, devsOk_resetWith cfg hlegal, senderOk_resetWith cfg⟩

theorem cleanEntry_resetWith (hn : (cfg.devices.map (·.address)).Nodup) : (State.resetWith cfg).CleanEntry :=
  ⟨rfl, rfl, rfl, rfl, rfl, rfl, rfl, fun _ => resetWith_lastTx cfg, rfl, tableOk_resetWith cfg hn⟩

end

/-! ## O51, O52 -/

/-- Settles O51: `meas`, which R290 leaves open, is the configured record's. -/
theorem resetValues : Obligations.ResetValues := by
  intro cfg
  refine ⟨rfl, rfl, rfl, rfl, rfl, rfl, rfl, List.length_map _, fun d v hv => ⟨v.meas, ?_⟩, tabGet_resetWith cfg⟩
  rw [resetWith_devs, List.getElem?_map, hv]
  rfl

/-- Settles O52: the launch premises of R292 give the address table and the legal records. -/
theorem resetIsCleanAndHasInvariant : Obligations.ResetIsCleanAndHasInvariant := by
  intro cfg h
  have ⟨_, _, _, _, hnodup, _⟩ := h
  exact ⟨cleanEntry_resetWith cfg hnodup, inv_resetWith cfg h⟩

end Sys2Proof.Machine
end
